-- ==== Sys2Proof/Word.lean ====
section
/-! DEFINITION. The 32-bit register word, the byte, and the signed bounds (00_scope.md R8, R9, R10). -/

namespace Sys2Proof

/-- A register's contents: 32 bits, read as a signed two's-complement integer through
`BitVec.toInt` (00_scope.md R8, R9). -/
abbrev Word := BitVec 32

/-- One byte of memory or of an encoding. -/
abbrev Byte := BitVec 8

/-- `INT_MIN` (00_scope.md R9). -/
abbrev intMin : Int := -2147483648

/-- `INT_MAX` (00_scope.md R9). -/
abbrev intMax : Int := 2147483647

/-- `wrap32(v)`: the one word whose signed value is `v` modulo 2^32 (00_scope.md R10). -/
abbrev wrap32 (v : Int) : Word := BitVec.ofInt 32 v

end Sys2Proof
end

