-- ==== Sys2Proof/Syntax.lean ====
section
/-! DEFINITION. The syntax: registers (10_state.md R20), instruction names, argument kinds and formats
(30_encoding.md R101, R110, R111), and the instructions themselves. -/

namespace Sys2Proof

/-- The fifteen registers (10_state.md R20). -/
inductive Reg where
  | r1 | r2 | r3 | r4 | r5 | r6 | r7 | r8
  /-- The accumulator (R27). -/
  | ac
  /-- The instruction pointer (R28). -/
  | ip
  /-- The stack-pointer register (R32). -/
  | sp
  /-- The frame pointer (R33). -/
  | fp
  /-- The flags register (R30). -/
  | fl
  /-- The counter of completed instructions (R29). -/
  | pc
  /-- The test-only register (R20). -/
  | test
  deriving DecidableEq, Repr

/-- Every register, in the order of 10_state.md R21. -/
def Reg.all : List Reg :=
  [.r1, .r2, .r3, .r4, .r5, .r6, .r7, .r8, .ac, .ip, .sp, .fp, .fl, .pc, .test]

/-- The argument kinds (30_encoding.md R101). -/
inductive ArgKind where
  | literalInteger
  | literalPointer
  | register
  | registerPointer
  | expression
  /-- Named by the source; no instruction takes one (R108). -/
  | instructionSizeHint
  deriving DecidableEq, Repr

/-- The twelve instruction formats (30_encoding.md R110). -/
inductive Format where
  | n | l | p | r | lr | rr | lp | rp | pr | qr | er | rl
  deriving DecidableEq, Repr

/-- The instruction names: the mnemonics of opcode_table.json (30_encoding.md R111). -/
inductive Op where
  | movLitReg
  | movRegReg
  | movLitMem
  | movRegMem
  | movMemReg
  | movRegPtrReg
  | movLitExpMemReg
  | addLitReg
  | addRegReg
  | subLitReg
  | subRegReg
  | mulLitReg
  | mulRegReg
  | divLitReg
  | divRegReg
  | modLitReg
  | modRegReg
  | jmpNotEq
  | jneReg
  | jeqLit
  | jeqReg
  | jltLit
  | jltReg
  | jgtLit
  | jgtReg
  | jleLit
  | jleReg
  | jgeLit
  | jgeReg
  | pushLit
  | pushReg
  | popReg
  | swap
  | callLit
  | ret
  | hlt
  | outRegLit
  | intLit
  deriving DecidableEq, Repr

/-- Every instruction name, in the table's order. -/
def Op.all : List Op :=
  [.movLitReg, .movRegReg, .movLitMem, .movRegMem, .movMemReg, .movRegPtrReg, .movLitExpMemReg, .addLitReg, .addRegReg, .subLitReg, .subRegReg, .mulLitReg, .mulRegReg, .divLitReg, .divRegReg, .modLitReg, .modRegReg,
   .jmpNotEq, .jneReg, .jeqLit, .jeqReg, .jltLit, .jltReg, .jgtLit, .jgtReg, .jleLit, .jleReg, .jgeLit, .jgeReg, .pushLit, .pushReg, .popReg, .swap, .callLit, .ret, .hlt, .outRegLit, .intLit]

/-- The instructions: one constructor per row of opcode_table.json, its operands in encoding order
(30_encoding.md R110, R111). A pointer (`ptr`) is an absolute address held in a 32-bit word; the text
`e` of an expression is a byte list (R106). -/
inductive Instr where
  /-- MOV_LIT_REG: load a literal into a register (41_data_movement.md R161). -/
  | movLitReg (lit : Word) (r : Reg)
  /-- MOV_REG_REG: copy a register (41_data_movement.md R162). -/
  | movRegReg (ra : Reg) (rb : Reg)
  /-- MOV_LIT_MEM: store a literal to a direct address (41_data_movement.md R163). -/
  | movLitMem (lit : Word) (ptr : Word)
  /-- MOV_REG_MEM: store a register to a direct address (41_data_movement.md R164). -/
  | movRegMem (r : Reg) (ptr : Word)
  /-- MOV_MEM_REG: load a register from a direct address (41_data_movement.md R165). -/
  | movMemReg (ptr : Word) (r : Reg)
  /-- MOV_REG_PTR_REG: load through a register pointer (41_data_movement.md R166). -/
  | movRegPtrReg (rp : Reg) (r : Reg)
  /-- MOV_LIT_EXP_MEM_REG: load from an address computed by an expression text (41_data_movement.md R167). -/
  | movLitExpMemReg (e : List Byte) (r : Reg)
  /-- ADD_LIT_REG: register plus literal (42_arithmetic.md R182). -/
  | addLitReg (lit : Word) (r : Reg)
  /-- ADD_REG_REG: rb plus ra (42_arithmetic.md R183). -/
  | addRegReg (ra : Reg) (rb : Reg)
  /-- SUB_LIT_REG: register minus literal (42_arithmetic.md R184). -/
  | subLitReg (lit : Word) (r : Reg)
  /-- SUB_REG_REG: rb minus ra (42_arithmetic.md R185). -/
  | subRegReg (ra : Reg) (rb : Reg)
  /-- MUL_LIT_REG: register times literal (42_arithmetic.md R186). -/
  | mulLitReg (lit : Word) (r : Reg)
  /-- MUL_REG_REG: rb times ra (42_arithmetic.md R187). -/
  | mulRegReg (ra : Reg) (rb : Reg)
  /-- DIV_LIT_REG: register divided by literal (42_arithmetic.md R189). -/
  | divLitReg (lit : Word) (r : Reg)
  /-- DIV_REG_REG: rb divided by ra (42_arithmetic.md R190). -/
  | divRegReg (ra : Reg) (rb : Reg)
  /-- MOD_LIT_REG: remainder of register by literal (42_arithmetic.md R191). -/
  | modLitReg (lit : Word) (r : Reg)
  /-- MOD_REG_REG: remainder of rb by ra (42_arithmetic.md R192). -/
  | modRegReg (ra : Reg) (rb : Reg)
  /-- JMP_NOT_EQ: jump if the literal differs from AC (43_jumps.md R202). -/
  | jmpNotEq (lit : Word) (ptr : Word)
  /-- JNE_REG: jump if the register differs from AC (43_jumps.md R203). -/
  | jneReg (r : Reg) (ptr : Word)
  /-- JEQ_LIT: jump if the literal equals AC (43_jumps.md R204). -/
  | jeqLit (lit : Word) (ptr : Word)
  /-- JEQ_REG: jump if the register equals AC (43_jumps.md R205). -/
  | jeqReg (r : Reg) (ptr : Word)
  /-- JLT_LIT: jump if literal < AC (43_jumps.md R206). -/
  | jltLit (lit : Word) (ptr : Word)
  /-- JLT_REG: jump if register < AC (43_jumps.md R207). -/
  | jltReg (r : Reg) (ptr : Word)
  /-- JGT_LIT: jump if literal > AC (43_jumps.md R208). -/
  | jgtLit (lit : Word) (ptr : Word)
  /-- JGT_REG: jump if register > AC (43_jumps.md R209). -/
  | jgtReg (r : Reg) (ptr : Word)
  /-- JLE_LIT: jump if literal <= AC (43_jumps.md R210). -/
  | jleLit (lit : Word) (ptr : Word)
  /-- JLE_REG: jump if register <= AC (43_jumps.md R211). -/
  | jleReg (r : Reg) (ptr : Word)
  /-- JGE_LIT: jump if literal >= AC (43_jumps.md R212). -/
  | jgeLit (lit : Word) (ptr : Word)
  /-- JGE_REG: jump if register >= AC (43_jumps.md R213). -/
  | jgeReg (r : Reg) (ptr : Word)
  /-- PUSH_LIT: push a literal (44_stack_and_call.md R226). -/
  | pushLit (lit : Word)
  /-- PUSH_REG: push a register (44_stack_and_call.md R227). -/
  | pushReg (r : Reg)
  /-- POP_REG: pop into a register (44_stack_and_call.md R228). -/
  | popReg (r : Reg)
  /-- SWAP: exchange the two top stack slots (44_stack_and_call.md R229). -/
  | swap
  /-- CALL_LIT: call a subroutine (44_stack_and_call.md R224). -/
  | callLit (ptr : Word)
  /-- RET: return from a subroutine (44_stack_and_call.md R225). -/
  | ret
  /-- HLT: halt (45_system.md R250). -/
  | hlt
  /-- OUT_REG_LIT: send a register value to a device (45_system.md R251). -/
  | outRegLit (r : Reg) (lit : Word)
  /-- INT_LIT: dispatch a software interrupt to a host handler (45_system.md R252). -/
  | intLit (lit : Word)
  deriving DecidableEq, Repr


end Sys2Proof
end

