-- ==== Sys2Proof/Config.lean ====
section
/-! DEFINITION. The implementation parameters of 00_scope.md R7, as plain data carried by the state and
written by no step (10_state.md R37, R38), and their legal values. The reference values are in
Machine/Reference.lean. -/

namespace Sys2Proof

/-- A region's access flags: a set of the five flags (20_memory.md R62). -/
structure AccessFlags where
  read : Bool
  write : Bool
  publicRead : Bool
  publicWrite : Bool
  execute : Bool
  deriving DecidableEq, Repr

/-- A region the configuration lists over base memory (00_scope.md R7, `REGIONS`). -/
structure RegionSpec where
  start : Nat
  /-- The exclusive upper bound. -/
  stop : Nat
  flags : AccessFlags
  label : String
  deriving DecidableEq, Repr

/-- The two kinds of device key (45_system.md R253). -/
inductive DeviceKind where
  | out
  | int
  deriving DecidableEq, Repr

/-- The bit positions of the flags in FL (10_state.md R30, `FL_LAYOUT`). -/
structure FlLayout where
  s : Fin 32
  z : Fin 32
  o : Fin 32
  c : Fin 32
  deriving DecidableEq, Repr

/-- One registered breakpoint: its address, its `BreakpointType` (open, so a number), and the answer
its callback gives: true asks for a halt (40_cycle.md R147). -/
structure Breakpoint where
  address : Int
  kind : Nat
  halts : Bool
  deriving DecidableEq, Repr

/-- The parameters of 00_scope.md R7 and the breakpoint registry (10_state.md R38). -/
structure Config where
  /-- `BASE_MEMORY_SIZE`. -/
  baseMemorySize : Nat
  /-- `STACK_SIZE`. -/
  stackSize : Nat
  /-- `INITIAL_LOAD_ADDRESS`: what the assembler relocates against. -/
  initialLoadAddress : Nat
  /-- `REGIONS`. -/
  regions : List RegionSpec
  /-- `STACK_FLAGS`. -/
  stackFlags : AccessFlags
  /-- `EXEC_FLAGS`. -/
  execFlags : AccessFlags
  /-- `OPCODE_MAP`. -/
  opcodeMap : List (Op × Word)
  /-- `REG_ID_MAP`. -/
  regIdMap : List (Reg × Byte)
  /-- `FL_LAYOUT`. -/
  flLayout : FlLayout
  /-- The jumps whose `TARGET_BIAS` is `BASE_MEMORY_SIZE`; it is 0 for every other one. -/
  biasedJumps : List Op
  /-- `DEBUG_STACK_TYPES`. -/
  debugStackTypes : Bool
  /-- `DEVICE_HANDLERS`: the keys that have a handler. -/
  deviceHandlers : List (DeviceKind × Word)
  /-- `SIZE_HINT_MAP`: open. -/
  sizeHintMap : List (String × Byte)
  /-- The debugger's registry, with the answers of the callbacks. -/
  breakpoints : List Breakpoint
  deriving DecidableEq, Repr

/-- `StackEnd`: the exclusive upper bound of the stack region (20_memory.md R61). -/
def Config.stackEnd (c : Config) : Nat := c.baseMemorySize

/-- `stackStart` (20_memory.md R61). -/
def Config.stackStart (c : Config) : Nat := c.baseMemorySize - c.stackSize

/-- Two address ranges that share no address. -/
def disjointRanges (start stop start' stop' : Nat) : Bool :=
  decide (stop ≤ start') || decide (stop' ≤ start)

/-- The legal values of the encoding parameters: both maps are total and injective, and the four FL
bits are distinct (00_scope.md R7). -/
def Config.encodingLegal (c : Config) : Bool :=
  decide (∀ o ∈ Op.all, o ∈ c.opcodeMap.map Prod.fst) &&
  decide ((c.opcodeMap.map Prod.fst).Nodup) && decide ((c.opcodeMap.map Prod.snd).Nodup) &&
  decide (∀ r ∈ Reg.all, r ∈ c.regIdMap.map Prod.fst) &&
  decide ((c.regIdMap.map Prod.fst).Nodup) && decide ((c.regIdMap.map Prod.snd).Nodup) &&
  decide ([c.flLayout.s, c.flLayout.z, c.flLayout.o, c.flLayout.c].Nodup)

/-- The legal values of the memory parameters (00_scope.md R7; the regions lie in base memory and
overlap neither each other nor the stack: 20_memory.md R62, R78). -/
def Config.memoryLegal (c : Config) : Bool :=
  decide (1 ≤ c.baseMemorySize) && decide (c.baseMemorySize ≤ 2147483647) &&
  decide (4 ≤ c.stackSize) && decide (c.stackSize % 4 = 0) &&
  decide (c.stackSize ≤ c.baseMemorySize) &&
  decide (c.initialLoadAddress ≤ 2147483647) &&
  c.execFlags.execute &&
  c.regions.all (fun r => decide (r.start < r.stop) && decide (r.stop ≤ c.stackStart)) &&
  decide (c.regions.Pairwise fun r r' => disjointRanges r.start r.stop r'.start r'.stop = true)

/-- Every parameter has a legal value (00_scope.md R7). -/
def Config.legal (c : Config) : Bool := c.encodingLegal && c.memoryLegal

end Sys2Proof
end

