-- ==== Sys2Proof/Machine/Reference.lean ====
section
/-! DEFINITION. The reference values of the implementation parameters (92_eei_decisions.md D2, D3, D5,
D50; 00_scope.md R7): neutral numberings and sizes of the spec's own (DESIGN CHOICE of the spec, log
entry 3). -/

namespace Sys2Proof

/-- The reference opcodes of 41_data_movement.md (30_encoding.md R111). -/
def dataMovementOpcodes : List (Op × Word) :=
  [(.movLitReg, 0x10), (.movRegReg, 0x11), (.movLitMem, 0x12), (.movRegMem, 0x13),
   (.movMemReg, 0x14), (.movRegPtrReg, 0x15), (.movLitExpMemReg, 0x16)]

/-- The reference opcodes of 42_arithmetic.md (30_encoding.md R111). -/
def arithmeticOpcodes : List (Op × Word) :=
  [(.addLitReg, 0x20), (.addRegReg, 0x21), (.subLitReg, 0x22), (.subRegReg, 0x23),
   (.mulLitReg, 0x24), (.mulRegReg, 0x25), (.divLitReg, 0x26), (.divRegReg, 0x27),
   (.modLitReg, 0x28), (.modRegReg, 0x29)]

/-- The reference opcodes of 43_jumps.md (30_encoding.md R111). -/
def jumpOpcodes : List (Op × Word) :=
  [(.jmpNotEq, 0x30), (.jneReg, 0x31), (.jeqLit, 0x32), (.jeqReg, 0x33),
   (.jltLit, 0x34), (.jltReg, 0x35), (.jgtLit, 0x36), (.jgtReg, 0x37),
   (.jleLit, 0x38), (.jleReg, 0x39), (.jgeLit, 0x3A), (.jgeReg, 0x3B)]

/-- The reference opcodes of 44_stack_and_call.md (30_encoding.md R111). -/
def stackOpcodes : List (Op × Word) :=
  [(.pushLit, 0x40), (.pushReg, 0x41), (.popReg, 0x42), (.swap, 0x43),
   (.callLit, 0x44), (.ret, 0x45)]

/-- The reference opcodes of 45_system.md (30_encoding.md R111). -/
def systemOpcodes : List (Op × Word) :=
  [(.hlt, 0x50), (.outRegLit, 0x51), (.intLit, 0x52)]

/-- The reference `OPCODE_MAP` (30_encoding.md R111, opcode_table.json). -/
def referenceOpcodes : List (Op × Word) :=
  List.flatten [dataMovementOpcodes, arithmeticOpcodes, jumpOpcodes, stackOpcodes, systemOpcodes]

/-- The reference `REG_ID_MAP` (10_state.md R21). -/
def referenceRegIds : List (Reg × Byte) :=
  [(.r1, 0x00), (.r2, 0x01), (.r3, 0x02), (.r4, 0x03), (.r5, 0x04), (.r6, 0x05), (.r7, 0x06),
   (.r8, 0x07), (.ac, 0x08), (.ip, 0x09), (.sp, 0x0A), (.fp, 0x0B), (.fl, 0x0C), (.pc, 0x0D),
   (.test, 0x0E)]

/-- The reference configuration (92_eei_decisions.md D50; `FL_LAYOUT` of 10_state.md R30). -/
def Config.reference : Config where
  baseMemorySize := 0x1000
  stackSize := 0x400
  initialLoadAddress := 0x1000
  regions :=
    [{ start := 0x0000, stop := 0x0800, flags := ⟨true, true, true, true, false⟩, label := "user" },
     { start := 0x0800, stop := 0x0C00, flags := ⟨true, true, false, false, false⟩,
       label := "system" }]
  stackFlags := ⟨true, true, true, false, false⟩
  execFlags := ⟨true, false, true, false, true⟩
  opcodeMap := referenceOpcodes
  regIdMap := referenceRegIds
  flLayout := { s := 0, z := 1, o := 2, c := 3 }
  biasedJumps := []
  debugStackTypes := false
  deviceHandlers := []
  sizeHintMap := []
  breakpoints := []

end Sys2Proof
end

