-- ==== Sys2Proof/WellFormed.lean ====
section
/-! DEFINITION. Which instructions an encoding can hold: registers and 32-bit operands are always
representable, and an expression text must have a length that a signed 32-bit length prefix can state
(30_encoding.md R101, R107). -/

namespace Sys2Proof

/-- A text whose length is a legal (non-negative int32) string length (30_encoding.md R107). -/
def textLengthOk (e : List Byte) : Bool := decide (e.length ≤ 2147483647)

/-- The instruction has an encoding (30_encoding.md R101, R110). -/
def Instr.wellFormed : Instr → Bool
  | .movLitExpMemReg e _ => textLengthOk e
  | .movLitReg _ _ | .movRegReg _ _ | .movLitMem _ _ | .movRegMem _ _ | .movMemReg _ _
  | .movRegPtrReg _ _ => true
  | .addLitReg _ _ | .addRegReg _ _ | .subLitReg _ _ | .subRegReg _ _ | .mulLitReg _ _
  | .mulRegReg _ _ | .divLitReg _ _ | .divRegReg _ _ | .modLitReg _ _ | .modRegReg _ _ => true
  | .jmpNotEq _ _ | .jneReg _ _ | .jeqLit _ _ | .jeqReg _ _ | .jltLit _ _ | .jltReg _ _
  | .jgtLit _ _ | .jgtReg _ _ | .jleLit _ _ | .jleReg _ _ | .jgeLit _ _ | .jgeReg _ _ => true
  | .pushLit _ | .pushReg _ | .popReg _ | .swap | .callLit _ | .ret => true
  | .hlt | .outRegLit _ _ | .intLit _ => true

end Sys2Proof
end

