-- ==== Sys2Proof/Decode.lean ====
section
/-! DEFINITION. Decoding and encoding (30_encoding.md). Decoding reads through a `Reader`, so that ONE
decoder serves the fetch cycle, whose every read is checked by the memory manager
(40_cycle.md R141-R143), and a plain list of bytes. -/

namespace Sys2Proof

/-! ### Bytes -/

/-- The unsigned value of little-endian bytes (20_memory.md R69). -/
def leNat : List Byte → Nat
  | [] => 0
  | b :: bs => b.toNat + 256 * leNat bs

/-- `le32` (00_scope.md R10): the word four little-endian bytes hold. -/
def le32 (bs : List Byte) : Word := BitVec.ofNat 32 (leNat bs)

/-- `bytes_le32` (00_scope.md R10; 20_memory.md R70): the byte at offset `i` is bits `8i+7:8i`. -/
def bytesLe32 (v : Word) : List Byte :=
  [v.extractLsb' 0 8, v.extractLsb' 8 8, v.extractLsb' 16 8, v.extractLsb' 24 8]

/-! ### The opcode map and the register identifiers -/

/-- The opcode value of an instruction name (30_encoding.md R111; a legal `OPCODE_MAP` is total). -/
def Config.opcode (c : Config) (o : Op) : Word :=
  match c.opcodeMap.find? (fun p => p.1 == o) with
  | some p => p.2
  | none => 0

/-- The instruction name an opcode value stands for, or none (30_encoding.md R112). -/
def Config.opOf (c : Config) (v : Word) : Option Op :=
  (c.opcodeMap.find? (fun p => p.2 == v)).map Prod.fst

/-- The identifier byte of a register (10_state.md R21; a legal `REG_ID_MAP` is total). -/
def Config.regId (c : Config) (r : Reg) : Byte :=
  match c.regIdMap.find? (fun p => p.1 == r) with
  | some p => p.2
  | none => 0

/-- The register an identifier byte names, or none (10_state.md R21; 30_encoding.md R104). -/
def Config.regOf (c : Config) (b : Byte) : Option Reg :=
  (c.regIdMap.find? (fun p => p.2 == b)).map Prod.fst

/-! ### Formats, arguments and lengths -/

/-- What one decoded argument of each kind is: the column "value decoded" of 30_encoding.md R101.
An expression is kept as its text (R106); a size hint as its byte (R108). -/
@[reducible] def ArgKind.Val : ArgKind → Type
  | .literalInteger => Word
  | .literalPointer => Word
  | .register => Reg
  | .registerPointer => Reg
  | .expression => List Byte
  | .instructionSizeHint => Byte

/-- The decoded arguments of a list of kinds, in declared order (30_encoding.md R100). -/
@[reducible] def Vals : List ArgKind → Type
  | [] => Unit
  | k :: ks => k.Val × Vals ks

/-- The arguments of each format, in order (30_encoding.md R110). -/
@[reducible] def Format.kinds : Format → List ArgKind
  | .n => []
  | .l => [.literalInteger]
  | .p => [.literalPointer]
  | .r => [.register]
  | .lr => [.literalInteger, .register]
  | .rr => [.register, .register]
  | .lp => [.literalInteger, .literalPointer]
  | .rp => [.register, .literalPointer]
  | .pr => [.literalPointer, .register]
  | .qr => [.registerPointer, .register]
  | .er => [.expression, .register]
  | .rl => [.register, .literalInteger]

/-- The format of each instruction (30_encoding.md R111). -/
@[reducible] def Op.format : Op → Format
  | .movLitReg => .lr
  | .movRegReg => .rr
  | .movLitMem => .lp
  | .movRegMem => .rp
  | .movMemReg => .pr
  | .movRegPtrReg => .qr
  | .movLitExpMemReg => .er
  | .addLitReg => .lr
  | .addRegReg => .rr
  | .subLitReg => .lr
  | .subRegReg => .rr
  | .mulLitReg => .lr
  | .mulRegReg => .rr
  | .divLitReg => .lr
  | .divRegReg => .rr
  | .modLitReg => .lr
  | .modRegReg => .rr
  | .jmpNotEq => .lp
  | .jneReg => .rp
  | .jeqLit => .lp
  | .jeqReg => .rp
  | .jltLit => .lp
  | .jltReg => .rp
  | .jgtLit => .lp
  | .jgtReg => .rp
  | .jleLit => .lp
  | .jleReg => .rp
  | .jgeLit => .lp
  | .jgeReg => .rp
  | .pushLit => .l
  | .pushReg => .r
  | .popReg => .r
  | .swap => .n
  | .callLit => .p
  | .ret => .n
  | .hlt => .n
  | .outRegLit => .rl
  | .intLit => .l

/-- The name of an instruction. -/
@[reducible] def Instr.op : Instr → Op
  | .movLitReg _ _ => .movLitReg
  | .movRegReg _ _ => .movRegReg
  | .movLitMem _ _ => .movLitMem
  | .movRegMem _ _ => .movRegMem
  | .movMemReg _ _ => .movMemReg
  | .movRegPtrReg _ _ => .movRegPtrReg
  | .movLitExpMemReg _ _ => .movLitExpMemReg
  | .addLitReg _ _ => .addLitReg
  | .addRegReg _ _ => .addRegReg
  | .subLitReg _ _ => .subLitReg
  | .subRegReg _ _ => .subRegReg
  | .mulLitReg _ _ => .mulLitReg
  | .mulRegReg _ _ => .mulRegReg
  | .divLitReg _ _ => .divLitReg
  | .divRegReg _ _ => .divRegReg
  | .modLitReg _ _ => .modLitReg
  | .modRegReg _ _ => .modRegReg
  | .jmpNotEq _ _ => .jmpNotEq
  | .jneReg _ _ => .jneReg
  | .jeqLit _ _ => .jeqLit
  | .jeqReg _ _ => .jeqReg
  | .jltLit _ _ => .jltLit
  | .jltReg _ _ => .jltReg
  | .jgtLit _ _ => .jgtLit
  | .jgtReg _ _ => .jgtReg
  | .jleLit _ _ => .jleLit
  | .jleReg _ _ => .jleReg
  | .jgeLit _ _ => .jgeLit
  | .jgeReg _ _ => .jgeReg
  | .pushLit _ => .pushLit
  | .pushReg _ => .pushReg
  | .popReg _ => .popReg
  | .swap => .swap
  | .callLit _ => .callLit
  | .ret => .ret
  | .hlt => .hlt
  | .outRegLit _ _ => .outRegLit
  | .intLit _ => .intLit

/-- The arguments of an instruction, in encoding order (30_encoding.md R110). -/
@[reducible] def Instr.vals : (i : Instr) → Vals i.op.format.kinds
  | .movLitReg lit r => (lit, r, ())
  | .movRegReg ra rb => (ra, rb, ())
  | .movLitMem lit ptr => (lit, ptr, ())
  | .movRegMem r ptr => (r, ptr, ())
  | .movMemReg ptr r => (ptr, r, ())
  | .movRegPtrReg rp r => (rp, r, ())
  | .movLitExpMemReg e r => (e, r, ())
  | .addLitReg lit r => (lit, r, ())
  | .addRegReg ra rb => (ra, rb, ())
  | .subLitReg lit r => (lit, r, ())
  | .subRegReg ra rb => (ra, rb, ())
  | .mulLitReg lit r => (lit, r, ())
  | .mulRegReg ra rb => (ra, rb, ())
  | .divLitReg lit r => (lit, r, ())
  | .divRegReg ra rb => (ra, rb, ())
  | .modLitReg lit r => (lit, r, ())
  | .modRegReg ra rb => (ra, rb, ())
  | .jmpNotEq lit ptr => (lit, ptr, ())
  | .jneReg r ptr => (r, ptr, ())
  | .jeqLit lit ptr => (lit, ptr, ())
  | .jeqReg r ptr => (r, ptr, ())
  | .jltLit lit ptr => (lit, ptr, ())
  | .jltReg r ptr => (r, ptr, ())
  | .jgtLit lit ptr => (lit, ptr, ())
  | .jgtReg r ptr => (r, ptr, ())
  | .jleLit lit ptr => (lit, ptr, ())
  | .jleReg r ptr => (r, ptr, ())
  | .jgeLit lit ptr => (lit, ptr, ())
  | .jgeReg r ptr => (r, ptr, ())
  | .pushLit lit => (lit, ())
  | .pushReg r => (r, ())
  | .popReg r => (r, ())
  | .swap => ()
  | .callLit ptr => (ptr, ())
  | .ret => ()
  | .hlt => ()
  | .outRegLit r lit => (r, lit, ())
  | .intLit lit => (lit, ())

/-- The instruction of a name with its arguments (40_cycle.md R143: the decoded values). -/
@[reducible] def Op.build : (o : Op) → Vals o.format.kinds → Instr
  | .movLitReg, (lit, r, _) => .movLitReg lit r
  | .movRegReg, (ra, rb, _) => .movRegReg ra rb
  | .movLitMem, (lit, ptr, _) => .movLitMem lit ptr
  | .movRegMem, (r, ptr, _) => .movRegMem r ptr
  | .movMemReg, (ptr, r, _) => .movMemReg ptr r
  | .movRegPtrReg, (rp, r, _) => .movRegPtrReg rp r
  | .movLitExpMemReg, (e, r, _) => .movLitExpMemReg e r
  | .addLitReg, (lit, r, _) => .addLitReg lit r
  | .addRegReg, (ra, rb, _) => .addRegReg ra rb
  | .subLitReg, (lit, r, _) => .subLitReg lit r
  | .subRegReg, (ra, rb, _) => .subRegReg ra rb
  | .mulLitReg, (lit, r, _) => .mulLitReg lit r
  | .mulRegReg, (ra, rb, _) => .mulRegReg ra rb
  | .divLitReg, (lit, r, _) => .divLitReg lit r
  | .divRegReg, (ra, rb, _) => .divRegReg ra rb
  | .modLitReg, (lit, r, _) => .modLitReg lit r
  | .modRegReg, (ra, rb, _) => .modRegReg ra rb
  | .jmpNotEq, (lit, ptr, _) => .jmpNotEq lit ptr
  | .jneReg, (r, ptr, _) => .jneReg r ptr
  | .jeqLit, (lit, ptr, _) => .jeqLit lit ptr
  | .jeqReg, (r, ptr, _) => .jeqReg r ptr
  | .jltLit, (lit, ptr, _) => .jltLit lit ptr
  | .jltReg, (r, ptr, _) => .jltReg r ptr
  | .jgtLit, (lit, ptr, _) => .jgtLit lit ptr
  | .jgtReg, (r, ptr, _) => .jgtReg r ptr
  | .jleLit, (lit, ptr, _) => .jleLit lit ptr
  | .jleReg, (r, ptr, _) => .jleReg r ptr
  | .jgeLit, (lit, ptr, _) => .jgeLit lit ptr
  | .jgeReg, (r, ptr, _) => .jgeReg r ptr
  | .pushLit, (lit, _) => .pushLit lit
  | .pushReg, (r, _) => .pushReg r
  | .popReg, (r, _) => .popReg r
  | .swap, _ => .swap
  | .callLit, (ptr, _) => .callLit ptr
  | .ret, _ => .ret
  | .hlt, _ => .hlt
  | .outRegLit, (r, lit, _) => .outRegLit r lit
  | .intLit, (lit, _) => .intLit lit

/-- The encoded size of one argument, in bytes (30_encoding.md R109). -/
def ArgKind.size : (k : ArgKind) → k.Val → Nat
  | .literalInteger, _ => 4
  | .literalPointer, _ => 4
  | .register, _ => 1
  | .registerPointer, _ => 1
  | .expression, e => 4 + List.length (α := Byte) e
  | .instructionSizeHint, _ => 1

/-- The encoded size of the arguments (30_encoding.md R109). -/
def argsSize : (ks : List ArgKind) → Vals ks → Nat
  | [], _ => 0
  | k :: ks, v => k.size v.1 + argsSize ks v.2

/-- The length of an instruction in bytes (30_encoding.md R109). -/
def Instr.length (i : Instr) : Nat := 4 + argsSize i.op.format.kinds i.vals

/-! ### Decoding -/

/-- Why an instruction's bytes are illegal (30_encoding.md R112). -/
inductive ContentError where
  /-- The opcode value is not in `OPCODE_MAP` (R112). -/
  | unknownOpcode (value : Word)
  /-- The byte names no register (R104). -/
  | badRegister (b : Byte)
  /-- The string length is negative (R107). -/
  | badLength (n : Int)
  deriving DecidableEq, Repr

/-- Why a list of bytes holds no instruction at its front. -/
inductive DecodeError where
  /-- The bytes end before the read of `need` bytes at `offset` is complete. -/
  | truncated (offset need : Nat)
  /-- The bytes are illegal. -/
  | illegal (e : ContentError)
  deriving DecidableEq, Repr

/-- A source of instruction bytes: `rd off n` reads `n` bytes at offset `off` from the opcode's
first byte, or says why it cannot. -/
abbrev Reader (ε : Type) := Nat → Nat → Except ε (List Byte)

/-- Read a 32-bit argument or opcode (30_encoding.md R102). -/
def readInt {ε : Type} (rd : Reader ε) (off : Nat) : Except ε Word :=
  match rd off 4 with
  | .error e => .error e
  | .ok bs => .ok (le32 bs)

/-- Read a one-byte argument. -/
def readByte {ε : Type} (rd : Reader ε) (off : Nat) : Except ε Byte :=
  match rd off 1 with
  | .error e => .error e
  | .ok bs => .ok (bs.headD 0)

/-- Read a register identifier: the byte first, then its value is checked
(30_encoding.md R104; 60_exceptions.md R274). -/
def readRegister {ε : Type} (c : Config) (inj : ContentError → ε) (rd : Reader ε) (off : Nat) :
    Except ε Reg :=
  match readByte rd off with
  | .error e => .error e
  | .ok b =>
    match c.regOf b with
    | some r => .ok r
    | none => .error (inj (.badRegister b))

/-- Read a string: its length, the check of the length, then its bytes (30_encoding.md R107). -/
def readText {ε : Type} (inj : ContentError → ε) (rd : Reader ε) (off : Nat) :
    Except ε (List Byte) :=
  match readInt rd off with
  | .error e => .error e
  | .ok n => if n.toInt < 0 then .error (inj (.badLength n.toInt)) else rd (off + 4) n.toNat

/-- `DecodeArg` (40_cycle.md R143; 30_encoding.md R102-R108). -/
def decodeArg {ε : Type} (c : Config) (inj : ContentError → ε) (rd : Reader ε) :
    (k : ArgKind) → Nat → Except ε k.Val
  | .literalInteger, off => readInt rd off
  | .literalPointer, off => readInt rd off
  | .register, off => readRegister c inj rd off
  | .registerPointer, off => readRegister c inj rd off
  | .expression, off => readText inj rd off
  | .instructionSizeHint, off => readByte rd off

/-- The arguments in declared order, the cursor moving past each (40_cycle.md R143). -/
def decodeArgs {ε : Type} (c : Config) (inj : ContentError → ε) (rd : Reader ε) :
    (ks : List ArgKind) → Nat → Except ε (Vals ks)
  | [], _ => .ok ()
  | k :: ks, off =>
    match decodeArg c inj rd k off with
    | .error e => .error e
    | .ok v =>
      match decodeArgs c inj rd ks (off + k.size v) with
      | .error e => .error e
      | .ok vs => .ok (v, vs)

/-- The opcode and the name it stands for (40_cycle.md R141, R142). -/
def decodeOp {ε : Type} (c : Config) (inj : ContentError → ε) (rd : Reader ε) : Except ε Op :=
  match readInt rd 0 with
  | .error e => .error e
  | .ok v =>
    match c.opOf v with
    | some o => .ok o
    | none => .error (inj (.unknownOpcode v))

/-- The instruction of a name, its arguments read from offset 4 on (30_encoding.md R100). -/
def decodeRest {ε : Type} (c : Config) (inj : ContentError → ε) (rd : Reader ε) (o : Op) :
    Except ε Instr :=
  match decodeArgs c inj rd o.format.kinds 4 with
  | .error e => .error e
  | .ok vs => .ok (o.build vs)

/-- The whole decoder over a reader. -/
def decodeFrom {ε : Type} (c : Config) (inj : ContentError → ε) (rd : Reader ε) : Except ε Instr :=
  match decodeOp c inj rd with
  | .error e => .error e
  | .ok o => decodeRest c inj rd o

/-- The reader of a list of bytes. -/
def listReader (bs : List Byte) : Reader DecodeError := fun off n =>
  if off + n ≤ bs.length then .ok ((bs.drop off).take n) else .error (.truncated off n)

/-- Decode the instruction at the front of a list of bytes, under a configuration; answers the
instruction and the bytes after it. -/
def decodeWith (c : Config) (bs : List Byte) : Except DecodeError (Instr × List Byte) :=
  match decodeFrom c .illegal (listReader bs) with
  | .error e => .error e
  | .ok i => .ok (i, bs.drop i.length)

/-- Decode under the reference configuration. -/
def decode (bs : List Byte) : Except DecodeError (Instr × List Byte) :=
  decodeWith Config.reference bs

/-! ### Encoding -/

/-- The bytes of one argument (30_encoding.md R101). -/
def encodeArg (c : Config) : (k : ArgKind) → k.Val → List Byte
  | .literalInteger, v => bytesLe32 v
  | .literalPointer, v => bytesLe32 v
  | .register, r => [c.regId r]
  | .registerPointer, r => [c.regId r]
  | .expression, e => bytesLe32 (BitVec.ofNat 32 (List.length (α := Byte) e)) ++ e
  | .instructionSizeHint, b => [b]

/-- The bytes of the arguments, each right after the one before (30_encoding.md R100). -/
def encodeArgs (c : Config) : (ks : List ArgKind) → Vals ks → List Byte
  | [], _ => []
  | k :: ks, v => encodeArg c k v.1 ++ encodeArgs c ks v.2

/-- The bytes of a well-formed instruction under a configuration (30_encoding.md R100). -/
def encodeWith (c : Config) (i : Instr) : List Byte :=
  bytesLe32 (c.opcode i.op) ++ encodeArgs c i.op.format.kinds i.vals

/-- The bytes of a well-formed instruction under the reference configuration. -/
def encode (i : Instr) : List Byte := encodeWith Config.reference i

/-! ### The host's table words -/

/-- The bytes of a number, the least significant first. -/
def leBytes : (n : Nat) → Nat → List Byte
  | 0, _ => []
  | n + 1, w => BitVec.ofNat 8 w :: leBytes n (w / 256)

/-- The image of a table word: the bytes of its `nbits` bits, the first byte at the lowest address,
then zeros up to the longest instruction of fixed length (12 bytes, 30_encoding.md R109) and one word
more, so that the instruction does not end its region. -/
def tableImage (nbits w : Nat) : List Byte :=
  leBytes ((nbits + 7) / 8) (w % 2 ^ nbits) ++ List.replicate 16 0

end Sys2Proof

/-- The instruction the decoder reads from a table word (30_encoding.md R111). -/
def Sys2Proof.decodeTableWord (nbits w : Nat) : Option Sys2Proof.Instr :=
  match Sys2Proof.decode (Sys2Proof.tableImage nbits w) with
  | .ok r => some r.1
  | .error _ => none
end

