-- ==== Sys2Proof/Machine/State.lean ====
section
/-! DEFINITION. The machine's state (10_state.md R38), its faults (60_exceptions.md R270), and the state
right after construction and reset (70_reset_and_hazards.md R301, R302). -/

namespace Sys2Proof.Machine

/-- The two security contexts of an access (60_exceptions.md R279). -/
inductive Context where
  | system
  | user
  deriving DecidableEq, Repr

/-- The kinds of memory access a violation names (60_exceptions.md R270). -/
inductive Access where
  | read
  | write
  | execute
  deriving DecidableEq, Repr

/-- The kinds of illegal operand (60_exceptions.md R270). -/
inductive OperandKind where
  | registerId
  | stringLength
  deriving DecidableEq, Repr

/-- The thirteen execution-time faults with the information each records (60_exceptions.md R270).
A step never stops with one: raising a fault is an effect the spec describes (R271), so the machine
goes to the NEXT state, halted, with the fault in its record (log entry 1). Each is safe: it is the
spec's own behaviour, and a claim that no fault arises reads the record. -/
inductive Fault where
  /-- Code 1: an access whose first byte lies in no region; raised by the checked read and write
  (20_memory.md R66, R67), in fetch, argument reads and execution. Safe. -/
  | memoryOutOfRange (addr : Int)
  /-- Code 2: an access past its region's end or without the flag it needs; raised by the checked
  read and write (20_memory.md R66-R68). Safe. -/
  | memoryAccessViolation (addr : Int) (access : Access) (ctx : Context)
  /-- Code 3: a User write to a privileged register; raised by the register write gate
  (10_state.md R24). Safe. -/
  | invalidRegister (r : Reg)
  /-- Code 4: a fetched opcode value that is not in `OPCODE_MAP`; raised by step 2 of the cycle
  (40_cycle.md R142). Safe. -/
  | invalidOpcode (value : Word)
  /-- Code 5: a byte that names no register, or a negative string length; raised by the argument
  reads (30_encoding.md R104, R107). Safe. -/
  | invalidOperand (kind : OperandKind) (value : Int)
  /-- Code 6: a zero divisor; raised by DIV and MOD (42_arithmetic.md R188). Safe. -/
  | divideByZero
  /-- Code 7: a push or a drop below the stack's start (20_memory.md R75, R81). Safe. -/
  | stackOverflow (addr : Int)
  /-- Code 8: a pop, a drop or a swap past the stack's end, or a drop off a slot boundary
  (20_memory.md R76, R81; 44_stack_and_call.md R229). Safe. -/
  | stackUnderflow (addr : Int)
  /-- Code 9: the debug shadow list does not match (20_memory.md R76, R81). Safe. -/
  | stackIntegrity (addr : Int)
  /-- Code 10: RET with no matching call (44_stack_and_call.md R225). Safe. -/
  | unmatchedReturn
  /-- Code 11: RET popped a negative argument count (44_stack_and_call.md R225). Safe. -/
  | invalidArgumentCount (n : Int)
  /-- Code 12: the expression text does not evaluate (41_data_movement.md R170). Safe. -/
  | invalidExpression (text : List Byte)
  /-- Code 13: no handler is registered for the key (45_system.md R251, R252). Safe. -/
  | noDeviceHandler (kind : DeviceKind) (key : Word)
  deriving DecidableEq, Repr

/-- The numeric code of a fault (60_exceptions.md R270). -/
def Fault.code : Fault → Nat
  | .memoryOutOfRange _ => 1
  | .memoryAccessViolation _ _ _ => 2
  | .invalidRegister _ => 3
  | .invalidOpcode _ => 4
  | .invalidOperand _ _ => 5
  | .divideByZero => 6
  | .stackOverflow _ => 7
  | .stackUnderflow _ => 8
  | .stackIntegrity _ => 9
  | .unmatchedReturn => 10
  | .invalidArgumentCount _ => 11
  | .invalidExpression _ => 12
  | .noDeviceHandler _ _ => 13

/-- Why an instruction has no meaning. No arm of `exec` answers with it: every instruction is
modelled. -/
inductive Refusal where
  /-- Raised by `exec` for an instruction not modelled yet, by its mnemonic; safe (the run stops). -/
  | notModelled (mnemonic : String)
  deriving DecidableEq, Repr

/-- The fault record (60_exceptions.md R271): the fault with its information, and the address of the
faulting instruction. The record's code is `Fault.code` of its fault. -/
structure FaultRecord where
  fault : Fault
  addr : Int
  deriving DecidableEq, Repr

/-- A region of the memory (20_memory.md R62); `stop` is exclusive. -/
structure Region where
  seqId : Nat
  start : Nat
  stop : Nat
  flags : AccessFlags
  label : String
  deriving DecidableEq, Repr

/-- The markers of the debug shadow list: `Int` is the only one (20_memory.md R80). -/
inductive StackType where
  | int
  deriving DecidableEq, Repr

/-- A device call (45_system.md R253). -/
structure DeviceEvent where
  kind : DeviceKind
  key : Word
  value : Word
  deriving DecidableEq, Repr

/-- The register file (10_state.md R20). -/
structure Regs where
  r1 : Word
  r2 : Word
  r3 : Word
  r4 : Word
  r5 : Word
  r6 : Word
  r7 : Word
  r8 : Word
  ac : Word
  ip : Word
  sp : Word
  fp : Word
  fl : Word
  pc : Word
  test : Word
  deriving DecidableEq, Repr

/-- Memory contents: (address, byte) pairs, the addresses strictly rising and no byte equal to what an
unlisted address reads as (20_memory.md R82: 0). -/
abbrev Memory := List Host.Cell

/-- The machine's state (10_state.md R38), the configuration it runs under, and the device trace. -/
structure State where
  /-- R1..R8, AC, IP, SP, FP, FL, PC, TEST. -/
  regs : Regs
  /-- The bytes of the buffer. -/
  mem : Memory
  /-- The length of the buffer (20_memory.md R63). -/
  memLen : Nat
  /-- The region table (20_memory.md R62). -/
  regions : List Region
  /-- The next sequence id (20_memory.md R78). -/
  nextSeqId : Nat
  /-- The memory manager's stack pointer (20_memory.md R74). -/
  msp : Int
  /-- The debug shadow list (20_memory.md R80). -/
  stackTypes : List StackType
  /-- The stack-frame-size counter, in bytes (10_state.md R34). -/
  fsz : Word
  /-- The call depth (10_state.md R34). -/
  depth : Nat
  /-- The run-state bit (10_state.md R34). -/
  halted : Bool
  /-- The fault that halted the machine (60_exceptions.md R271). -/
  fault : Option FaultRecord
  /-- The parameters of 00_scope.md R7: no step writes them (10_state.md R37). -/
  cfg : Config
  /-- The MODEL's own field: the device calls so far, oldest first (45_system.md R253). -/
  trace : List DeviceEvent
  deriving DecidableEq, Repr

/-- Every register at 0: "All registers default to 0" (70_reset_and_hazards.md R301). -/
def Regs.zero : Regs where
  r1 := 0
  r2 := 0
  r3 := 0
  r4 := 0
  r5 := 0
  r6 := 0
  r7 := 0
  r8 := 0
  ac := 0
  ip := 0
  sp := 0
  fp := 0
  fl := 0
  pc := 0
  test := 0

/-- The regions a configuration lists, numbered from `n` (70_reset_and_hazards.md R302). -/
def numberedRegions : Nat → List RegionSpec → List Region
  | _, [] => []
  | n, r :: rs => ⟨n, r.start, r.stop, r.flags, r.label⟩ :: numberedRegions (n + 1) rs

/-- The region table after construction: `REGIONS` in their listed order, then the stack region
(70_reset_and_hazards.md R302; label: 20_memory.md R73). -/
def initialRegions (c : Config) : List Region :=
  numberedRegions 0 c.regions ++
    [⟨c.regions.length, c.stackStart, c.stackEnd, c.stackFlags, "stack"⟩]

/-- A new machine under a configuration (70_reset_and_hazards.md R301, R302). -/
def State.constructed (c : Config) : State where
  regs := Regs.zero
  mem := []
  memLen := c.baseMemorySize
  regions := initialRegions c
  nextSeqId := c.regions.length + 1
  msp := c.stackEnd
  stackTypes := []
  fsz := 0
  depth := 0
  halted := false
  fault := none
  cfg := c
  trace := []

/-- The machine right after construction and Reset under the reference configuration
(70_reset_and_hazards.md R301, R302): no executable region is loaded and IP is 0. -/
def State.reset : State := State.constructed Config.reference

end Sys2Proof.Machine
end

