-- ==== Sys2Proof/Machine/Memory.lean ====
section
/-! DEFINITION. The byte buffer as canonical data: reading and writing bytes by address
(20_memory.md R60, R70, R82). Checks are in Machine/Ops.lean. -/

namespace Sys2Proof.Machine

/-- What an address that is not listed reads as: every byte is 0 at construction (20_memory.md R82). -/
def unlistedByte : Byte := 0

/-- The canonical form: addresses strictly rising, and no listed byte equal to what an unlisted address
reads as. -/
abbrev Memory.wf (m : Memory) : Prop :=
  m.Pairwise (fun x y => x.1 < y.1) ∧ ∀ c ∈ m, c.2 ≠ unlistedByte

/-- The byte at an address. -/
def Memory.read : Memory → Nat → Byte
  | [], _ => unlistedByte
  | (k, b) :: m, a => if k = a then b else Memory.read m a

/-- Store one byte, keeping the canonical form. -/
def Memory.write : Memory → Nat → Byte → Memory
  | [], a, b => if b = unlistedByte then [] else [(a, b)]
  | (k, c) :: m, a, b =>
    if a < k then (if b = unlistedByte then (k, c) :: m else (a, b) :: (k, c) :: m)
    else if a = k then (if b = unlistedByte then m else (a, b) :: m)
    else (k, c) :: Memory.write m a b

/-- `n` bytes from an address up. -/
def Memory.readBytes (m : Memory) : Nat → Nat → List Byte
  | _, 0 => []
  | a, n + 1 => Memory.read m a :: Memory.readBytes m (a + 1) n

/-- Store bytes from an address up. -/
def Memory.writeBytes : Memory → Nat → List Byte → Memory
  | m, _, [] => m
  | m, a, b :: bs => Memory.writeBytes (Memory.write m a b) (a + 1) bs

/-- Keep only the bytes below an address: the buffer truncated (20_memory.md R78). -/
def Memory.truncate (m : Memory) (len : Nat) : Memory := m.filter (fun c => decide (c.1 < len))

end Sys2Proof.Machine
end

