-- ==== Sys2Proof/Machine/Ops.lean ====
section
/-! DEFINITION. The named operations: actions, register access and its gate, checked memory access, the
typed accessors, the stack primitives, taking a fault, and the frame of one cycle around an
instruction's statements. -/

namespace Sys2Proof.Machine

/-! ### Actions -/

/-- The statements of an instruction: they run in order on the state, and the first raise ends them
with the effects so far kept (00_scope.md R10; 60_exceptions.md R272). -/
abbrev Act (α : Type) := EStateM Fault State α

/-- `raise F`. -/
def raise {α : Type} (f : Fault) : Act α := fun s => .error f s

/-- `if not ok: raise F`. -/
def require (ok : Bool) (f : Fault) : Act Unit := fun s => if ok then .ok () s else .error f s

/-- The state as it stands. -/
def theState : Act State := fun s => .ok s s

/-- Change the state. -/
def update (f : State → State) : Act Unit := fun s => .ok () (f s)

/-- A read that may raise and changes nothing. -/
def inspect {α : Type} (g : State → Except Fault α) : Act α := fun s =>
  match g s with
  | .ok a => .ok a s
  | .error f => .error f s

/-! ### Registers -/

/-- The privileged registers: writable only under the System context (10_state.md R23). -/
def isPrivileged : Reg → Bool
  | .ip | .sp | .fp | .fl | .pc => true
  | .r1 | .r2 | .r3 | .r4 | .r5 | .r6 | .r7 | .r8 | .ac | .test => false

/-- A register of the register file. -/
def Regs.get (rs : Regs) : Reg → Word
  | .r1 => rs.r1
  | .r2 => rs.r2
  | .r3 => rs.r3
  | .r4 => rs.r4
  | .r5 => rs.r5
  | .r6 => rs.r6
  | .r7 => rs.r7
  | .r8 => rs.r8
  | .ac => rs.ac
  | .ip => rs.ip
  | .sp => rs.sp
  | .fp => rs.fp
  | .fl => rs.fl
  | .pc => rs.pc
  | .test => rs.test

/-- The register file with one register changed. -/
def Regs.set (rs : Regs) (r : Reg) (v : Word) : Regs :=
  match r with
  | .r1 => { rs with r1 := v }
  | .r2 => { rs with r2 := v }
  | .r3 => { rs with r3 := v }
  | .r4 => { rs with r4 := v }
  | .r5 => { rs with r5 := v }
  | .r6 => { rs with r6 := v }
  | .r7 => { rs with r7 := v }
  | .r8 => { rs with r8 := v }
  | .ac => { rs with ac := v }
  | .ip => { rs with ip := v }
  | .sp => { rs with sp := v }
  | .fp => { rs with fp := v }
  | .fl => { rs with fl := v }
  | .pc => { rs with pc := v }
  | .test => { rs with test := v }

/-- `x[r]`: an ungated read (10_state.md R25). -/
def State.reg (s : State) (r : Reg) : Word := s.regs.get r

/-- The state with one register changed, without a gate. -/
def State.setReg (s : State) (r : Reg) (v : Word) : State := { s with regs := s.regs.set r v }

/-- The value of `x[r]` in an instruction's statements (10_state.md R25). -/
def getReg (r : Reg) : Act Word := fun s => .ok (s.reg r) s

/-- Whether the gate admits a write of `r` under a context (10_state.md R24). -/
def writeAllowed (ctx : Context) (r : Reg) : Bool := !(isPrivileged r && ctx == .user)

/-- `x[r] <-ctx v`: the register write gate, then the write (10_state.md R24). -/
def writeReg (ctx : Context) (r : Reg) (v : Word) : Act Unit := do
  require (writeAllowed ctx r) (.invalidRegister r)
  update (fun s => s.setReg r v)

/-! ### Checked memory access -/

/-- The permission predicate (20_memory.md R65); an execute fetch needs Execute in either context. -/
def permitted (access : Access) (ctx : Context) (f : AccessFlags) : Bool :=
  match access, ctx with
  | .read, .system => f.read
  | .read, .user => f.publicRead
  | .write, .system => f.write
  | .write, .user => f.publicWrite
  | .execute, _ => f.execute

/-- Whether an address lies in a region. -/
def Region.holds (r : Region) (a : Int) : Bool := decide ((r.start : Int) ≤ a) && decide (a < r.stop)

/-- `Resolve(a)`: the region that holds an address of the buffer, or none (20_memory.md R60, R64). -/
def State.resolve (s : State) (a : Int) : Option Region :=
  if a < s.memLen then s.regions.find? (fun r => r.holds a) else none

/-- `MemRead(a, n, ctx, fetch)`: the checked read, its checks in the order written
(20_memory.md R66, R68). -/
def State.memRead (s : State) (a : Int) (n : Nat) (ctx : Context) (fetch : Bool) :
    Except Fault (List Byte) :=
  if n = 0 then .ok []
  else
    match s.resolve a with
    | none => .error (.memoryOutOfRange a)
    | some r =>
      if (r.stop : Int) < a + n then .error (.memoryAccessViolation a .read ctx)
      else if !permitted .read ctx r.flags then .error (.memoryAccessViolation a .read ctx)
      else if fetch && !permitted .execute ctx r.flags then
        .error (.memoryAccessViolation a .execute ctx)
      else .ok (s.mem.readBytes a.toNat n)

/-- The first check of `MemWrite` that fails, if one does (20_memory.md R67, R68). -/
def State.writeFault (s : State) (a : Int) (n : Nat) (ctx : Context) : Option Fault :=
  match s.resolve a with
  | none => some (.memoryOutOfRange a)
  | some r =>
    if (r.stop : Int) < a + n then some (.memoryAccessViolation a .write ctx)
    else if !permitted .write ctx r.flags then some (.memoryAccessViolation a .write ctx)
    else none

/-- The state with bytes stored, without a check. -/
def State.storeBytes (s : State) (a : Nat) (bs : List Byte) : State :=
  { s with mem := s.mem.writeBytes a bs }

/-- `MemWrite(a, n, bytes, ctx)`: every check comes before the first byte is stored
(20_memory.md R67). -/
def memWrite (a : Int) (bs : List Byte) (ctx : Context) : Act Unit := fun s =>
  match s.writeFault a bs.length ctx with
  | some f => .error f s
  | none => .ok () (s.storeBytes a.toNat bs)

/-! ### The typed accessors (20_memory.md R72) -/

/-- The checked memory as a reader of offsets from an address. -/
def State.reader (s : State) (a : Int) (ctx : Context) (fetch : Bool) : Reader Fault :=
  fun off n => s.memRead (a + off) n ctx fetch

/-- The fault illegal contents raise (40_cycle.md R142; 30_encoding.md R104, R107). -/
def decodeFault : ContentError → Fault
  | .unknownOpcode v => .invalidOpcode v
  | .badRegister b => .invalidOperand .registerId b.toNat
  | .badLength n => .invalidOperand .stringLength n

/-- `GetInt`, and `GetOpCode` in step 1 of the cycle. -/
def State.getInt (s : State) (a : Int) (ctx : Context) (fetch : Bool) : Except Fault Word :=
  readInt (s.reader a ctx fetch) 0

/-- `GetValue`: one byte (no instruction uses it). -/
def State.getValue (s : State) (a : Int) (ctx : Context) (fetch : Bool) : Except Fault Byte :=
  readByte (s.reader a ctx fetch) 0

/-- `GetRegisterIdent`. -/
def State.getRegisterIdent (s : State) (a : Int) (ctx : Context) (fetch : Bool) :
    Except Fault Reg :=
  readRegister s.cfg decodeFault (s.reader a ctx fetch) 0

/-- `GetSizeHintIdent`: the byte, with the name `SIZE_HINT_MAP` gives it if any (30_encoding.md R108;
no instruction uses it). -/
def State.getSizeHintIdent (s : State) (a : Int) (ctx : Context) (fetch : Bool) :
    Except Fault (Byte × Option String) :=
  match readByte (s.reader a ctx fetch) 0 with
  | .error f => .error f
  | .ok b => .ok (b, (s.cfg.sizeHintMap.find? (fun p => p.2 == b)).map Prod.fst)

/-- `GetString`. -/
def State.getString (s : State) (a : Int) (ctx : Context) (fetch : Bool) :
    Except Fault (List Byte) :=
  readText decodeFault (s.reader a ctx fetch) 0

/-- `ReadInt(a, ctx, false)` in an instruction's statements (00_scope.md R10). -/
def loadInt (a : Int) (ctx : Context) : Act Word := inspect (fun s => s.getInt a ctx false)

/-- `WriteInt(a, v, ctx)` (00_scope.md R10): the accessor `SetInt`. -/
def storeInt (a : Int) (v : Word) (ctx : Context) : Act Unit := memWrite a (bytesLe32 v) ctx

/-! ### The stack (20_memory.md R73-R77, R81) -/

/-- The move of the stack pointer after a push (20_memory.md R75). -/
def State.pushed (s : State) : State :=
  { s with
    msp := s.msp - 4
    stackTypes := if s.cfg.debugStackTypes then s.stackTypes ++ [.int] else s.stackTypes }

/-- The move of the stack pointer after a pop (20_memory.md R76). -/
def State.popped (s : State) : State :=
  { s with
    msp := s.msp + 4
    stackTypes := if s.cfg.debugStackTypes then s.stackTypes.dropLast else s.stackTypes }

/-- `StackPush(v)` (20_memory.md R75). -/
def stackPush (v : Word) : Act Unit := do
  let s ← theState
  require (decide ((s.cfg.stackStart : Int) ≤ s.msp - 4)) (.stackOverflow s.msp)
  storeInt (s.msp - 4) v .system
  update State.pushed

/-- `StackPop()` (20_memory.md R76, R80). -/
def stackPop : Act Word := do
  let s ← theState
  require (decide (s.msp + 4 ≤ s.cfg.stackEnd)) (.stackUnderflow s.msp)
  require (!s.cfg.debugStackTypes || s.stackTypes.getLast? == some .int) (.stackIntegrity s.msp)
  let v ← loadInt s.msp .system
  update State.popped
  pure v

/-- The number of slots a drop from `msp` to `a` discards (20_memory.md R81). -/
def dropCount (msp a : Int) : Int := (a - msp) / 4

/-- The move of the stack pointer by a drop (20_memory.md R81). -/
def State.droppedTo (s : State) (a : Int) : State :=
  { s with
    msp := a
    stackTypes :=
      if s.cfg.debugStackTypes then
        s.stackTypes.take (s.stackTypes.length - (dropCount s.msp a).toNat)
      else s.stackTypes }

/-- `StackDropTo(a)` (20_memory.md R81). -/
def stackDropTo (a : Int) : Act Unit := do
  let s ← theState
  require (decide ((s.cfg.stackStart : Int) ≤ a)) (.stackOverflow a)
  require (decide (a ≤ s.cfg.stackEnd) && decide ((s.cfg.stackEnd - a) % 4 = 0)) (.stackUnderflow a)
  require
    (!s.cfg.debugStackTypes ||
      (decide (0 ≤ dropCount s.msp a) && decide (dropCount s.msp a ≤ s.stackTypes.length)))
    (.stackIntegrity s.msp)
  update (fun s => s.droppedTo a)

/-- `ClearStack()` (20_memory.md R77). -/
def State.clearStack (s : State) : State :=
  { s with msp := s.cfg.stackEnd, stackTypes := [] }

/-- `x[SP] <-System msp` (10_state.md R32). -/
def mirrorSp : Act Unit := do
  let s ← theState
  writeReg .system .sp (wrap32 s.msp)

/-- The frame-size counter moved by `n` bytes (44_stack_and_call.md R220, R221, R224). -/
def State.counted (s : State) (n : Int) : State := { s with fsz := wrap32 (s.fsz.toInt + n) }

/-- Count bytes in the frame-size counter (44_stack_and_call.md R220, R221, R224). -/
def countFrame (n : Int) : Act Unit := update (fun s => s.counted n)

/-- A push counted in the frame: `StackPush(v); fsz := wrap32(fsz + 4)`
(44_stack_and_call.md R220, R224). -/
def pushCounted (v : Word) : Act Unit := do
  stackPush v
  countFrame 4

/-- `CpuPush(v)` (44_stack_and_call.md R220). -/
def cpuPush (v : Word) : Act Unit := do
  pushCounted v
  mirrorSp

/-- `CpuPop()` (44_stack_and_call.md R221). -/
def cpuPop : Act Word := do
  let v ← stackPop
  countFrame (-4)
  mirrorSp
  pure v

/-! ### Devices -/

/-- The state with one more event on the trace. -/
def State.emitted (s : State) (e : DeviceEvent) : State := { s with trace := s.trace ++ [e] }

/-- A device call: the key must have a handler, and the call is an event
(45_system.md R251-R253). -/
def deviceCall (kind : DeviceKind) (key value : Word) : Act Unit := do
  let s ← theState
  require (decide ((kind, key) ∈ s.cfg.deviceHandlers)) (.noDeviceHandler kind key)
  update (fun s => s.emitted ⟨kind, key, value⟩)

/-! ### Taking a fault, and completing an instruction

Nothing returns from a fault: there is no trap entry, no vector and no return
(60_exceptions.md R276-R278). The host's Reset (Machine/HostOps.lean) is what runs the machine again. -/

/-- Taking fault `f` in the cycle that began at `a0`: the machine is halted, the record holds the fault
and `a0`, PC is not incremented, and every effect so far stays (60_exceptions.md R271, R272). -/
def State.takeFault (s : State) (a0 : Int) (f : Fault) : State :=
  { s with halted := true, fault := some ⟨f, a0⟩ }

/-- `x[IP] >= fr.end`, where `fr` is the region of the cycle's opcode (40_cycle.md R146; 10_state.md
R35). With no such region there is no end to reach (log entry 7). -/
def State.pastFetchRegion (s : State) (a0 : Int) : Bool :=
  match s.resolve a0 with
  | some fr => decide ((fr.stop : Int) ≤ (s.reg .ip).toInt)
  | none => false

/-- The end of a cycle whose instruction completed: PC counts it, then the halt check
(40_cycle.md R144-R146). -/
def State.retire (s : State) (a0 : Int) (haltRequested : Bool) : State :=
  let s1 := s.setReg .pc (wrap32 ((s.reg .pc).toInt + 1))
  { s1 with halted := s1.halted || haltRequested || s1.pastFetchRegion a0 }

/-- IP past the whole instruction: steps 3 and 5 of the cycle (40_cycle.md R142, R143). -/
def State.advance (s : State) (i : Instr) : State :=
  s.setReg .ip (wrap32 ((s.reg .ip).toInt + i.length))

/-- The cycle around a decoded instruction's statements, from the state before step 3 (IP still at
the opcode): IP moves past the instruction, the statements run, and the instruction completes, with or
without a halt request, or its fault is taken (40_cycle.md R142-R146, R150; 60_exceptions.md R271). -/
def cycle (i : Instr) (body : Act Bool) (s : State) : Host.Outcome State Fault Refusal :=
  match body (s.advance i) with
  | .ok haltRequested s' => .next (s'.retire (s.reg .ip).toInt haltRequested)
  | .error f s' => .next (s'.takeFault (s.reg .ip).toInt f)

/-- The statements of an instruction that requests no halt. -/
def thenGoOn (body : Act Unit) : Act Bool := do
  body
  pure false

end Sys2Proof.Machine
end

