-- ==== Sys2Proof/Machine/Expression.lean ====
section
/-! DEFINITION. Numerals (30_encoding.md R117) and run-time expressions (41_data_movement.md
R168-R170). Characters are their ASCII codes. -/

namespace Sys2Proof.Machine

/-! ### Numerals (30_encoding.md R117) -/

/-- The value of a digit in a base, or none. -/
def digitValue (base c : Nat) : Option Nat :=
  let v :=
    if 0x30 ≤ c ∧ c ≤ 0x39 then c - 0x30          -- 0-9
    else if 0x61 ≤ c ∧ c ≤ 0x66 then c - 0x61 + 10  -- a-f
    else if 0x41 ≤ c ∧ c ≤ 0x46 then c - 0x41 + 10  -- A-F
    else base
  if v < base then some v else none

/-- The value of digits in a base, after the digits already read; every character must be a digit. -/
def digitsFrom (base : Nat) : Nat → List Nat → Option Nat
  | acc, [] => some acc
  | acc, c :: cs =>
    match digitValue base c with
    | some d => digitsFrom base (acc * base + d) cs
    | none => none

/-- One or more digits of a base. -/
def digits (base : Nat) (cs : List Nat) : Option Nat :=
  if cs.isEmpty then none else digitsFrom base 0 cs

/-- `body` of the numeral grammar: `0b` binary, `0x` hexadecimal, `0` and more digits octal, a bare
`0`, or decimal (30_encoding.md R117). -/
def numeralBody : List Nat → Option Nat
  | 0x30 :: 0x62 :: cs => digits 2 cs
  | 0x30 :: 0x78 :: cs => digits 16 cs
  | [0x30] => some 0
  | 0x30 :: cs => digits 8 cs
  | cs => digits 10 cs

/-- A value in the range of a numeral (30_encoding.md R117; 41_data_movement.md R170). -/
def inIntRange (v : Int) : Option Int := if intMin ≤ v ∧ v ≤ intMax then some v else none

/-- `numeral`: an optional `-` and a body, in the range of an int (30_encoding.md R117). -/
def numeral : List Nat → Option Int
  | 0x2D :: cs =>
    match numeralBody cs with
    | some v => inIntRange (-v)
    | none => none
  | cs =>
    match numeralBody cs with
    | some v => inIntRange v
    | none => none

/-! ### Register names -/

/-- The upper-case form of an ASCII letter (41_data_movement.md R168: either case). -/
def upperCase (c : Nat) : Nat := if 0x61 ≤ c ∧ c ≤ 0x7A then c - 0x20 else c

/-- The register names in capitals (41_data_movement.md R168). -/
def registerNames : List (List Nat × Reg) :=
  [([0x52, 0x31], .r1), ([0x52, 0x32], .r2), ([0x52, 0x33], .r3), ([0x52, 0x34], .r4),
   ([0x52, 0x35], .r5), ([0x52, 0x36], .r6), ([0x52, 0x37], .r7), ([0x52, 0x38], .r8),
   ([0x41, 0x43], .ac), ([0x49, 0x50], .ip), ([0x53, 0x50], .sp), ([0x46, 0x50], .fp),
   ([0x46, 0x4C], .fl), ([0x50, 0x43], .pc), ([0x54, 0x45, 0x53, 0x54], .test)]

/-- The register a word names, or none. -/
def registerNamed (cs : List Nat) : Option Reg :=
  (registerNames.find? (fun p => p.1 == cs.map upperCase)).map Prod.snd

/-! ### Tokens -/

/-- The tokens of an expression: a word is a longest run of characters that are neither white space
nor `+` nor a parenthesis. -/
inductive Token where
  | word (cs : List Nat)
  | plus
  | lpar
  | rpar
  deriving DecidableEq, Repr

/-- The word read so far, if there is one, before the tokens that follow. -/
def flushWord (cs : List Nat) (ts : List Token) : List Token :=
  if cs.isEmpty then ts else .word cs :: ts

/-- The tokens of a text, after the word read so far (41_data_movement.md R168: `ws` is spaces and
tabs). -/
def tokensFrom : List Nat → List Byte → List Token
  | cur, [] => flushWord cur []
  | cur, b :: bs =>
    if b.toNat = 0x20 ∨ b.toNat = 0x09 then flushWord cur (tokensFrom [] bs)
    else if b.toNat = 0x2B then flushWord cur (.plus :: tokensFrom [] bs)
    else if b.toNat = 0x28 then flushWord cur (.lpar :: tokensFrom [] bs)
    else if b.toNat = 0x29 then flushWord cur (.rpar :: tokensFrom [] bs)
    else tokensFrom (cur ++ [b.toNat]) bs

/-- The tokens of a text. -/
def tokens (text : List Byte) : List Token := tokensFrom [] text

/-! ### Evaluation (41_data_movement.md R169, R170) -/

/-- The value of a word: a register's signed value or a numeral's, or none. -/
def termValue (x : Reg → Word) (cs : List Nat) : Option Int :=
  match registerNamed cs with
  | some r => some (x r).toInt
  | none => numeral cs

/-- The value of a token list in the grammar of R168, its words valued by `term`, or none where it does
not match. Only `+` and parentheses combine terms, so the value is the sum of all terms, and the grammar
is followed by whether a term has just ended and how many parentheses are open (log entry 10). -/
def evalTokens (term : List Nat → Option Int) : Bool → Nat → Int → List Token → Option Int
  | true, 0, acc, [] => some acc
  | false, open', acc, .word cs :: ts =>
    match term cs with
    | some v => evalTokens term true open' (acc + v) ts
    | none => none
  | false, open', acc, .lpar :: ts => evalTokens term false (open' + 1) acc ts
  | true, open', acc, .plus :: ts => evalTokens term false open' acc ts
  | true, open' + 1, acc, .rpar :: ts => evalTokens term true open' acc ts
  | _, _, _, _ => none

/-- `Eval(e)` over the registers `x`: the mathematical sum, with no 32-bit wrap, or none where `e` is
no expression (41_data_movement.md R168-R170). -/
def evalExpression (x : Reg → Word) (e : List Byte) : Option Int :=
  evalTokens (termValue x) false 0 0 (tokens e)

end Sys2Proof.Machine
end

