-- ==== Sys2Proof/Machine/Flags.lean ====
section
/-! DEFINITION. The flags register and the common write of every arithmetic instruction
(10_state.md R30, R31; 42_arithmetic.md R180, R181). -/

namespace Sys2Proof.Machine

/-- The three flags an arithmetic result gives. -/
structure ArithFlags where
  s : Bool
  z : Bool
  o : Bool
  deriving DecidableEq, Repr

/-- The flag laws: S and Z from the truncated result, O from the wide one (10_state.md R31). -/
def arithFlags (w : Int) : ArithFlags where
  s := decide ((wrap32 w).toInt < 0)
  z := decide (wrap32 w = 0)
  o := decide (w < intMin) || decide (intMax < w)

/-- A word with one bit set or cleared. -/
def setBit (v : Word) (i : Fin 32) (b : Bool) : Word :=
  if b then v ||| (1#32 <<< i.val) else v &&& ~~~(1#32 <<< i.val)

/-- FL with S, Z and O replaced, C and the reserved bits kept (42_arithmetic.md R181). -/
def packFlags (l : FlLayout) (fl : Word) (f : ArithFlags) : Word :=
  setBit (setBit (setBit fl l.s f.s) l.z f.z) l.o f.o

/-- `SetArith(w)`: AC gets the truncated result under User, FL the flags under System
(42_arithmetic.md R181). -/
def setArith (w : Int) : Act Unit := do
  writeReg .user .ac (wrap32 w)
  let s ← theState
  writeReg .system .fl (packFlags s.cfg.flLayout (s.reg .fl) (arithFlags w))

end Sys2Proof.Machine
end

