-- ==== Sys2Proof/Machine/Operands.lean ====
section
/-! DEFINITION. The operand forms (30_encoding.md R101, R105, R106) and the statements shared by the
instructions of one family. -/

namespace Sys2Proof.Machine

/-! ### Operands -/

/-- A named destination register: written under User (10_state.md R26). -/
def writeDestination (rd : Reg) (v : Word) : Act Unit := writeReg .user rd v

/-- A direct memory source: a LiteralPointer, read under User (41_data_movement.md R160, R165). -/
def loadDirect (ptr : Word) : Act Word := loadInt ptr.toInt .user

/-- A direct memory destination: a LiteralPointer, written under User (41_data_movement.md R160,
R163). -/
def storeDirect (ptr v : Word) : Act Unit := storeInt ptr.toInt v .user

/-- A RegisterPointer source: the register's value is the address (30_encoding.md R105). -/
def loadPointer (rp : Reg) : Act Word := do
  let a ← getReg rp
  loadInt a.toInt .user

/-- The address an expression gives on the registers as they stand, or `InvalidExpression`
(41_data_movement.md R169, R170). -/
def expressionAddress (e : List Byte) : Act Int :=
  inspect fun s =>
    match evalExpression s.reg e with
    | some a => .ok a
    | none => .error (.invalidExpression e)

/-- An Expression source (41_data_movement.md R167). -/
def loadExpression (e : List Byte) : Act Word := do
  let a ← expressionAddress e
  loadInt a .user

/-! ### Arithmetic (42_arithmetic.md R180, R188) -/

/-- The exact result of an operation on two signed operands goes through `SetArith`. -/
def arithmetic (f : Int → Int → Int) (x y : Word) : Act Unit := setArith (f x.toInt y.toInt)

/-- A division's result, `DivideByZero` for every dividend when the divisor is 0
(42_arithmetic.md R188). -/
def division (f : Int → Int → Int) (dividend divisor : Word) : Act Unit := do
  require (decide (divisor ≠ 0)) .divideByZero
  arithmetic f dividend divisor

/-- The quotient truncated toward zero (42_arithmetic.md R188). -/
def quotient (n d : Int) : Int := Int.tdiv n d

/-- The remainder: `n - d*q`, with the sign of the dividend (42_arithmetic.md R188). -/
def remainder (n d : Int) : Int := Int.tmod n d

/-! ### Jumps (43_jumps.md R200, R201) -/

/-- The six relations. -/
inductive Relation where
  | ne
  | eq
  | lt
  | gt
  | le
  | ge
  deriving DecidableEq, Repr

/-- `v REL a`, signed (43_jumps.md R201). -/
def relationHolds (rel : Relation) (v a : Word) : Bool :=
  match rel with
  | .ne => decide (v.toInt ≠ a.toInt)
  | .eq => decide (v.toInt = a.toInt)
  | .lt => decide (v.toInt < a.toInt)
  | .gt => decide (v.toInt > a.toInt)
  | .le => decide (v.toInt ≤ a.toInt)
  | .ge => decide (v.toInt ≥ a.toInt)

/-- `TARGET_BIAS(op)`: 0 or `BASE_MEMORY_SIZE` (00_scope.md R7; 43_jumps.md R201). -/
def targetBias (c : Config) (o : Op) : Int :=
  if o ∈ c.biasedJumps then (c.baseMemorySize : Int) else 0

/-- A jump: if the operand stands in the relation to AC, IP is the target plus its bias, under System
(43_jumps.md R200). -/
def jumpIf (rel : Relation) (o : Op) (v target : Word) : Act Unit := do
  let s ← theState
  if relationHolds rel v (s.reg .ac) then
    writeReg .system .ip (wrap32 (target.toInt + targetBias s.cfg o))
  else
    pure ()

end Sys2Proof.Machine
end

