-- ==== Sys2Proof/Machine/Arithmetic.lean ====
section
/-! DEFINITION. The arithmetic instructions (42_arithmetic.md). Each writes AC and FL and no operand
register (R180). -/

namespace Sys2Proof.Machine

/-- The statements of a `_LIT_REG` form: the register operand is on the left of the operation
(42_arithmetic.md R182, R184, R186). -/
def arithLitReg (f : Int → Int → Int) (lit : Word) (rs : Reg) : Act Unit := do
  let v ← getReg rs
  arithmetic f v lit

/-- The statements of a `_REG_REG` form: `rb` is on the left of the operation, `ra` on its right
(42_arithmetic.md R183, R185, R187). -/
def arithRegReg (f : Int → Int → Int) (ra rb : Reg) : Act Unit := do
  let y ← getReg ra
  let x ← getReg rb
  arithmetic f x y

/-- The statements of a division by a literal (42_arithmetic.md R189, R191). -/
def divLitRegBody (f : Int → Int → Int) (lit : Word) (rs : Reg) : Act Unit := do
  let n ← getReg rs
  division f n lit

/-- The statements of a division by a register: `ra` is the divisor (42_arithmetic.md R190, R192). -/
def divRegRegBody (f : Int → Int → Int) (ra rb : Reg) : Act Unit := do
  let d ← getReg ra
  let n ← getReg rb
  division f n d

/-- ADD_LIT_REG: `SetArith(x[rs] + lit)` (42_arithmetic.md R182). -/
def execAddLitReg (lit : Word) (rs : Reg) (s : State) : Host.Outcome State Fault Refusal :=
  cycle (.addLitReg lit rs) (thenGoOn (arithLitReg (· + ·) lit rs)) s

/-- ADD_REG_REG: `SetArith(x[rb] + x[ra])` (42_arithmetic.md R183). -/
def execAddRegReg (ra rb : Reg) (s : State) : Host.Outcome State Fault Refusal :=
  cycle (.addRegReg ra rb) (thenGoOn (arithRegReg (· + ·) ra rb)) s

/-- SUB_LIT_REG: `SetArith(x[rs] - lit)` (42_arithmetic.md R184). -/
def execSubLitReg (lit : Word) (rs : Reg) (s : State) : Host.Outcome State Fault Refusal :=
  cycle (.subLitReg lit rs) (thenGoOn (arithLitReg (· - ·) lit rs)) s

/-- SUB_REG_REG: `SetArith(x[rb] - x[ra])` (42_arithmetic.md R185). -/
def execSubRegReg (ra rb : Reg) (s : State) : Host.Outcome State Fault Refusal :=
  cycle (.subRegReg ra rb) (thenGoOn (arithRegReg (· - ·) ra rb)) s

/-- MUL_LIT_REG: `SetArith(x[rs] * lit)` (42_arithmetic.md R186). -/
def execMulLitReg (lit : Word) (rs : Reg) (s : State) : Host.Outcome State Fault Refusal :=
  cycle (.mulLitReg lit rs) (thenGoOn (arithLitReg (· * ·) lit rs)) s

/-- MUL_REG_REG: `SetArith(x[rb] * x[ra])` (42_arithmetic.md R187). -/
def execMulRegReg (ra rb : Reg) (s : State) : Host.Outcome State Fault Refusal :=
  cycle (.mulRegReg ra rb) (thenGoOn (arithRegReg (· * ·) ra rb)) s

/-- DIV_LIT_REG: `DivideByZero` if lit = 0, else `SetArith(quot(x[rs], lit))` (42_arithmetic.md R189). -/
def execDivLitReg (lit : Word) (rs : Reg) (s : State) : Host.Outcome State Fault Refusal :=
  cycle (.divLitReg lit rs) (thenGoOn (divLitRegBody quotient lit rs)) s

/-- DIV_REG_REG: `DivideByZero` if x[ra] = 0, else `SetArith(quot(x[rb], x[ra]))` (42_arithmetic.md R190). -/
def execDivRegReg (ra rb : Reg) (s : State) : Host.Outcome State Fault Refusal :=
  cycle (.divRegReg ra rb) (thenGoOn (divRegRegBody quotient ra rb)) s

/-- MOD_LIT_REG: `DivideByZero` if lit = 0, else `SetArith(rem(x[rs], lit))` (42_arithmetic.md R191). -/
def execModLitReg (lit : Word) (rs : Reg) (s : State) : Host.Outcome State Fault Refusal :=
  cycle (.modLitReg lit rs) (thenGoOn (divLitRegBody remainder lit rs)) s

/-- MOD_REG_REG: `DivideByZero` if x[ra] = 0, else `SetArith(rem(x[rb], x[ra]))` (42_arithmetic.md R192). -/
def execModRegReg (ra rb : Reg) (s : State) : Host.Outcome State Fault Refusal :=
  cycle (.modRegReg ra rb) (thenGoOn (divRegRegBody remainder ra rb)) s

end Sys2Proof.Machine
end

