-- ==== Sys2Proof/Machine/DataMovement.lean ====
section
/-! DEFINITION. The data movement instructions (41_data_movement.md). None writes FL, SP, `msp`, `fsz`
or `depth`; destinations and memory operands are accessed under User (R160). -/

namespace Sys2Proof.Machine

/-- MOV_LIT_REG: `x[rd] <-User lit` (41_data_movement.md R161). -/
def execMovLitReg (lit : Word) (rd : Reg) (s : State) : Host.Outcome State Fault Refusal :=
  cycle (.movLitReg lit rd) (thenGoOn (writeDestination rd lit)) s

/-- The statements of MOV_REG_REG. -/
def movRegRegBody (rs rd : Reg) : Act Unit := do
  let v ← getReg rs
  writeDestination rd v

/-- MOV_REG_REG: `x[rd] <-User x[rs]` (41_data_movement.md R162). -/
def execMovRegReg (rs rd : Reg) (s : State) : Host.Outcome State Fault Refusal :=
  cycle (.movRegReg rs rd) (thenGoOn (movRegRegBody rs rd)) s

/-- MOV_LIT_MEM: `WriteInt(a, lit, User)` (41_data_movement.md R163). -/
def execMovLitMem (lit a : Word) (s : State) : Host.Outcome State Fault Refusal :=
  cycle (.movLitMem lit a) (thenGoOn (storeDirect a lit)) s

/-- The statements of MOV_REG_MEM. -/
def movRegMemBody (rs : Reg) (a : Word) : Act Unit := do
  let v ← getReg rs
  storeDirect a v

/-- MOV_REG_MEM: `WriteInt(a, x[rs], User)` (41_data_movement.md R164). -/
def execMovRegMem (rs : Reg) (a : Word) (s : State) : Host.Outcome State Fault Refusal :=
  cycle (.movRegMem rs a) (thenGoOn (movRegMemBody rs a)) s

/-- A load into a destination: the memory faults come before the destination's
(41_data_movement.md R165; 60_exceptions.md R275). -/
def loadInto (source : Act Word) (rd : Reg) : Act Unit := do
  let v ← source
  writeDestination rd v

/-- MOV_MEM_REG: `v := ReadInt(a, User, false); x[rd] <-User v` (41_data_movement.md R165). -/
def execMovMemReg (a : Word) (rd : Reg) (s : State) : Host.Outcome State Fault Refusal :=
  cycle (.movMemReg a rd) (thenGoOn (loadInto (loadDirect a) rd)) s

/-- MOV_REG_PTR_REG: `a := x[rp]; v := ReadInt(a, User, false); x[rd] <-User v`
(41_data_movement.md R166). -/
def execMovRegPtrReg (rp rd : Reg) (s : State) : Host.Outcome State Fault Refusal :=
  cycle (.movRegPtrReg rp rd) (thenGoOn (loadInto (loadPointer rp) rd)) s

/-- MOV_LIT_EXP_MEM_REG: `a := Eval(e); v := ReadInt(a, User, false); x[rd] <-User v`
(41_data_movement.md R167). -/
def execMovLitExpMemReg (e : List Byte) (rd : Reg) (s : State) :
    Host.Outcome State Fault Refusal :=
  cycle (.movLitExpMemReg e rd) (thenGoOn (loadInto (loadExpression e) rd)) s

end Sys2Proof.Machine
end

