-- ==== Sys2Proof/Machine/Jumps.lean ====
section
/-! DEFINITION. The twelve jumps (43_jumps.md): the operand is on the left of the relation and AC on its
right (R201). None reads or writes FL, and the target is not checked here (R200). -/

namespace Sys2Proof.Machine

/-- The statements of a jump with a register operand (43_jumps.md R200). -/
def jumpRegBody (rel : Relation) (o : Op) (rs : Reg) (target : Word) : Act Unit := do
  let v ← getReg rs
  jumpIf rel o v target

/-- JMP_NOT_EQ: `if lit ≠ x[AC]: x[IP] <-System target + TARGET_BIAS(JMP_NOT_EQ)` (43_jumps.md R202). -/
def execJmpNotEq (lit target : Word) (s : State) : Host.Outcome State Fault Refusal :=
  cycle (.jmpNotEq lit target) (thenGoOn (jumpIf .ne .jmpNotEq lit target)) s

/-- JNE_REG: `if x[rs] ≠ x[AC]: x[IP] <-System target + TARGET_BIAS(JNE_REG)` (43_jumps.md R203). -/
def execJneReg (rs : Reg) (target : Word) (s : State) : Host.Outcome State Fault Refusal :=
  cycle (.jneReg rs target) (thenGoOn (jumpRegBody .ne .jneReg rs target)) s

/-- JEQ_LIT: `if lit = x[AC]: x[IP] <-System target + TARGET_BIAS(JEQ_LIT)` (43_jumps.md R204). -/
def execJeqLit (lit target : Word) (s : State) : Host.Outcome State Fault Refusal :=
  cycle (.jeqLit lit target) (thenGoOn (jumpIf .eq .jeqLit lit target)) s

/-- JEQ_REG: `if x[rs] = x[AC]: x[IP] <-System target + TARGET_BIAS(JEQ_REG)` (43_jumps.md R205). -/
def execJeqReg (rs : Reg) (target : Word) (s : State) : Host.Outcome State Fault Refusal :=
  cycle (.jeqReg rs target) (thenGoOn (jumpRegBody .eq .jeqReg rs target)) s

/-- JLT_LIT: `if lit < x[AC]: x[IP] <-System target + TARGET_BIAS(JLT_LIT)` (43_jumps.md R206). -/
def execJltLit (lit target : Word) (s : State) : Host.Outcome State Fault Refusal :=
  cycle (.jltLit lit target) (thenGoOn (jumpIf .lt .jltLit lit target)) s

/-- JLT_REG: `if x[rs] < x[AC]: x[IP] <-System target + TARGET_BIAS(JLT_REG)` (43_jumps.md R207). -/
def execJltReg (rs : Reg) (target : Word) (s : State) : Host.Outcome State Fault Refusal :=
  cycle (.jltReg rs target) (thenGoOn (jumpRegBody .lt .jltReg rs target)) s

/-- JGT_LIT: `if lit > x[AC]: x[IP] <-System target + TARGET_BIAS(JGT_LIT)` (43_jumps.md R208). -/
def execJgtLit (lit target : Word) (s : State) : Host.Outcome State Fault Refusal :=
  cycle (.jgtLit lit target) (thenGoOn (jumpIf .gt .jgtLit lit target)) s

/-- JGT_REG: `if x[rs] > x[AC]: x[IP] <-System target + TARGET_BIAS(JGT_REG)` (43_jumps.md R209). -/
def execJgtReg (rs : Reg) (target : Word) (s : State) : Host.Outcome State Fault Refusal :=
  cycle (.jgtReg rs target) (thenGoOn (jumpRegBody .gt .jgtReg rs target)) s

/-- JLE_LIT: `if lit <= x[AC]: x[IP] <-System target + TARGET_BIAS(JLE_LIT)` (43_jumps.md R210). -/
def execJleLit (lit target : Word) (s : State) : Host.Outcome State Fault Refusal :=
  cycle (.jleLit lit target) (thenGoOn (jumpIf .le .jleLit lit target)) s

/-- JLE_REG: `if x[rs] <= x[AC]: x[IP] <-System target + TARGET_BIAS(JLE_REG)` (43_jumps.md R211). -/
def execJleReg (rs : Reg) (target : Word) (s : State) : Host.Outcome State Fault Refusal :=
  cycle (.jleReg rs target) (thenGoOn (jumpRegBody .le .jleReg rs target)) s

/-- JGE_LIT: `if lit >= x[AC]: x[IP] <-System target + TARGET_BIAS(JGE_LIT)` (43_jumps.md R212). -/
def execJgeLit (lit target : Word) (s : State) : Host.Outcome State Fault Refusal :=
  cycle (.jgeLit lit target) (thenGoOn (jumpIf .ge .jgeLit lit target)) s

/-- JGE_REG: `if x[rs] >= x[AC]: x[IP] <-System target + TARGET_BIAS(JGE_REG)` (43_jumps.md R213). -/
def execJgeReg (rs : Reg) (target : Word) (s : State) : Host.Outcome State Fault Refusal :=
  cycle (.jgeReg rs target) (thenGoOn (jumpRegBody .ge .jgeReg rs target)) s

end Sys2Proof.Machine
end

