-- ==== Sys2Proof/Machine/StackCall.lean ====
section
/-! DEFINITION. The stack, call and return instructions (44_stack_and_call.md). Stack accesses and the
writes of SP, FP and IP are made under System. -/

namespace Sys2Proof.Machine

/-! ### Push, pop and swap -/

/-- PUSH_LIT: `CpuPush(lit)` (44_stack_and_call.md R226). -/
def execPushLit (lit : Word) (s : State) : Host.Outcome State Fault Refusal :=
  cycle (.pushLit lit) (thenGoOn (cpuPush lit)) s

/-- The statements of PUSH_REG. -/
def pushRegBody (rs : Reg) : Act Unit := do
  let v ← getReg rs
  cpuPush v

/-- PUSH_REG: `CpuPush(x[rs])` (44_stack_and_call.md R227). -/
def execPushReg (rs : Reg) (s : State) : Host.Outcome State Fault Refusal :=
  cycle (.pushReg rs) (thenGoOn (pushRegBody rs)) s

/-- The statements of POP_REG: the pop stays done when the destination is privileged
(44_stack_and_call.md R228; 60_exceptions.md R272). -/
def popRegBody (rd : Reg) : Act Unit := do
  let v ← cpuPop
  writeDestination rd v

/-- POP_REG: `v := CpuPop(); x[rd] <-User v` (44_stack_and_call.md R228). -/
def execPopReg (rd : Reg) (s : State) : Host.Outcome State Fault Refusal :=
  cycle (.popReg rd) (thenGoOn (popRegBody rd)) s

/-- The statements of SWAP: two slots are needed before anything moves
(44_stack_and_call.md R229). -/
def swapBody : Act Unit := do
  let s ← theState
  require (decide (s.msp + 8 ≤ s.cfg.stackEnd)) (.stackUnderflow s.msp)
  let a ← stackPop
  let b ← stackPop
  stackPush a
  stackPush b
  mirrorSp

/-- SWAP: exchange the two top slots (44_stack_and_call.md R229). -/
def execSwap (s : State) : Host.Outcome State Fault Refusal :=
  cycle .swap (thenGoOn swapBody) s

/-! ### Call -/

/-- The registers a call saves, in the order it pushes them (44_stack_and_call.md R224). -/
def savedRegs : List Reg := [.r1, .r2, .r3, .r4, .r5, .r6, .r7, .r8]

/-- Push registers in order, each counted (44_stack_and_call.md R224). -/
def pushRegs : List Reg → Act Unit
  | [] => pure ()
  | r :: rs => do
    let v ← getReg r
    pushCounted v
    pushRegs rs

/-- The saved frame size, which counts its own slot: `StackPush(wrap32(fsz + 4))`
(44_stack_and_call.md R224). -/
def pushFrameSize : Act Unit := do
  let s ← theState
  stackPush (wrap32 (s.fsz.toInt + 4))

/-- A new frame's counters: `fsz := 0; depth := depth + 1` (44_stack_and_call.md R224). -/
def State.entered (s : State) : State := { s with fsz := 0, depth := s.depth + 1 }

/-- `x[FP] <-System msp; fsz := 0; depth := depth + 1` (44_stack_and_call.md R224). -/
def enterFrame : Act Unit := do
  let s ← theState
  writeReg .system .fp (wrap32 s.msp)
  update State.entered

/-- The statements of CALL_LIT (44_stack_and_call.md R224). -/
def callBody (target : Word) : Act Unit := do
  let ra ← getReg .ip
  pushRegs savedRegs
  pushCounted ra
  pushFrameSize
  enterFrame
  mirrorSp
  writeReg .system .ip target

/-- CALL_LIT: save R1..R8, the return address and the frame size, and jump
(44_stack_and_call.md R224). -/
def execCallLit (target : Word) (s : State) : Host.Outcome State Fault Refusal :=
  cycle (.callLit target) (thenGoOn (callBody target)) s

/-! ### Return -/

/-- Pop into registers in order, under System (44_stack_and_call.md R225). -/
def popRegs : List Reg → Act Unit
  | [] => pure ()
  | r :: rs => do
    let v ← stackPop
    writeReg .system r v
    popRegs rs

/-- Discard stack slots: `repeat n times: StackPop()` (44_stack_and_call.md R225). -/
def discardSlots : Nat → Act Unit
  | 0 => pure ()
  | n + 1 => do
    let _ ← stackPop
    discardSlots n

/-- The caller's counters: `fsz := wrap32(size - 44 - 4*n); depth := depth - 1`
(44_stack_and_call.md R225). -/
def State.returned (s : State) (size n : Word) : State :=
  { s with fsz := wrap32 (size.toInt - 44 - 4 * n.toInt), depth := s.depth - 1 }

/-- The statements of RET (44_stack_and_call.md R225). -/
def retBody : Act Unit := do
  let s ← theState
  require (decide (s.depth ≠ 0)) .unmatchedReturn
  let fp0 ← getReg .fp
  stackDropTo fp0.toInt
  let size ← stackPop
  popRegs (.ip :: savedRegs.reverse)
  let n ← stackPop
  require (decide (0 ≤ n.toInt)) (.invalidArgumentCount n.toInt)
  discardSlots n.toInt.toNat
  writeReg .system .fp (wrap32 (fp0.toInt + size.toInt))
  update (fun s => s.returned size n)
  mirrorSp

/-- RET: restore IP, R1..R8 and FP, and discard the arguments (44_stack_and_call.md R225). -/
def execRet (s : State) : Host.Outcome State Fault Refusal :=
  cycle .ret (thenGoOn retBody) s

end Sys2Proof.Machine
end

