-- ==== Sys2Proof/Machine/System.lean ====
section
/-! DEFINITION. The system instructions (45_system.md). -/

namespace Sys2Proof.Machine

/-- HLT: request the halt; the instruction completes, so PC counts it (45_system.md R250). -/
def execHlt (s : State) : Host.Outcome State Fault Refusal :=
  cycle .hlt (pure true) s

/-- The statements of OUT_REG_LIT. -/
def outRegLitBody (rs : Reg) (addr : Word) : Act Unit := do
  let v ← getReg rs
  deviceCall .out addr v

/-- OUT_REG_LIT: `DeviceCall(Out, addr, x[rs])`, or `NoDeviceHandler` (45_system.md R251, R253). -/
def execOutRegLit (rs : Reg) (addr : Word) (s : State) : Host.Outcome State Fault Refusal :=
  cycle (.outRegLit rs addr) (thenGoOn (outRegLitBody rs addr)) s

/-- The statements of INT_LIT. -/
def intLitBody (id : Word) : Act Unit := do
  let v ← getReg .ac
  deviceCall .int id v

/-- INT_LIT: `DeviceCall(Int, id, x[AC])`, or `NoDeviceHandler` (45_system.md R252, R253). -/
def execIntLit (id : Word) (s : State) : Host.Outcome State Fault Refusal :=
  cycle (.intLit id) (thenGoOn (intLitBody id)) s

end Sys2Proof.Machine
end

