-- ==== Sys2Proof/Machine/Dispatch.lean ====
section
/-! DEFINITION. The dispatch: one arm per instruction. `exec i s` is the rest of the cycle after the
decode of `i` on the state `s` whose IP is still at the opcode (40_cycle.md R142-R146). -/

namespace Sys2Proof.Machine

def exec (i : Instr) (s : State) : Host.Outcome State Fault Refusal :=
  match i with
  | .movLitReg lit r => Sys2Proof.Machine.execMovLitReg lit r s
  | .movRegReg ra rb => Sys2Proof.Machine.execMovRegReg ra rb s
  | .movLitMem lit ptr => Sys2Proof.Machine.execMovLitMem lit ptr s
  | .movRegMem r ptr => Sys2Proof.Machine.execMovRegMem r ptr s
  | .movMemReg ptr r => Sys2Proof.Machine.execMovMemReg ptr r s
  | .movRegPtrReg rp r => Sys2Proof.Machine.execMovRegPtrReg rp r s
  | .movLitExpMemReg e r => Sys2Proof.Machine.execMovLitExpMemReg e r s
  | .addLitReg lit r => Sys2Proof.Machine.execAddLitReg lit r s
  | .addRegReg ra rb => Sys2Proof.Machine.execAddRegReg ra rb s
  | .subLitReg lit r => Sys2Proof.Machine.execSubLitReg lit r s
  | .subRegReg ra rb => Sys2Proof.Machine.execSubRegReg ra rb s
  | .mulLitReg lit r => Sys2Proof.Machine.execMulLitReg lit r s
  | .mulRegReg ra rb => Sys2Proof.Machine.execMulRegReg ra rb s
  | .divLitReg lit r => Sys2Proof.Machine.execDivLitReg lit r s
  | .divRegReg ra rb => Sys2Proof.Machine.execDivRegReg ra rb s
  | .modLitReg lit r => Sys2Proof.Machine.execModLitReg lit r s
  | .modRegReg ra rb => Sys2Proof.Machine.execModRegReg ra rb s
  | .jmpNotEq lit ptr => Sys2Proof.Machine.execJmpNotEq lit ptr s
  | .jneReg r ptr => Sys2Proof.Machine.execJneReg r ptr s
  | .jeqLit lit ptr => Sys2Proof.Machine.execJeqLit lit ptr s
  | .jeqReg r ptr => Sys2Proof.Machine.execJeqReg r ptr s
  | .jltLit lit ptr => Sys2Proof.Machine.execJltLit lit ptr s
  | .jltReg r ptr => Sys2Proof.Machine.execJltReg r ptr s
  | .jgtLit lit ptr => Sys2Proof.Machine.execJgtLit lit ptr s
  | .jgtReg r ptr => Sys2Proof.Machine.execJgtReg r ptr s
  | .jleLit lit ptr => Sys2Proof.Machine.execJleLit lit ptr s
  | .jleReg r ptr => Sys2Proof.Machine.execJleReg r ptr s
  | .jgeLit lit ptr => Sys2Proof.Machine.execJgeLit lit ptr s
  | .jgeReg r ptr => Sys2Proof.Machine.execJgeReg r ptr s
  | .pushLit lit => Sys2Proof.Machine.execPushLit lit s
  | .pushReg r => Sys2Proof.Machine.execPushReg r s
  | .popReg r => Sys2Proof.Machine.execPopReg r s
  | .swap => Sys2Proof.Machine.execSwap s
  | .callLit ptr => Sys2Proof.Machine.execCallLit ptr s
  | .ret => Sys2Proof.Machine.execRet s
  | .hlt => Sys2Proof.Machine.execHlt s
  | .outRegLit r lit => Sys2Proof.Machine.execOutRegLit r lit s
  | .intLit lit => Sys2Proof.Machine.execIntLit lit s

end Sys2Proof.Machine
end

