-- ==== Sys2Proof/Machine/HostOps.lean ====
section
/-! DEFINITION. What the host may do between cycles (60_exceptions.md R286): memory regions
(20_memory.md R78), Reset (70_reset_and_hazards.md R300), construction (R302) and boot (R303). No
instruction can invoke these. `none` stands for a refusal with `RegionError`, the machine unchanged. -/

namespace Sys2Proof.Machine

/-- `AddMemoryRegion(start, end, flags, label)` (20_memory.md R78). -/
def State.addMemoryRegion (s : State) (start stop : Int) (flags : AccessFlags) (label : String) :
    Option (State × Region) :=
  if decide (stop ≤ start) || decide (start < 0) || decide ((s.memLen : Int) < stop) ||
      s.regions.any (fun r => !disjointRanges start.toNat stop.toNat r.start r.stop) then none
  else
    let r : Region :=
      { seqId := s.nextSeqId, start := start.toNat, stop := stop.toNat, flags, label }
    some ({ s with regions := s.regions ++ [r], nextSeqId := s.nextSeqId + 1 }, r)

/-- `AddExecutableMemory(bytes)`: append the image to the buffer as a region with `EXEC_FLAGS`
(20_memory.md R78; the label is the model's, log entry 6). The copy is the one access without a check
(R79). -/
def State.addExecutableMemory (s : State) (bytes : List Byte) : Option (State × Region) :=
  if bytes.isEmpty || decide (2147483647 < s.memLen + bytes.length) then none
  else
    let r : Region :=
      { seqId := s.nextSeqId, start := s.memLen, stop := s.memLen + bytes.length,
        flags := s.cfg.execFlags, label := "executable" }
    some
      ({ s with
         mem := s.mem.writeBytes s.memLen bytes
         memLen := s.memLen + bytes.length
         regions := s.regions ++ [r]
         nextSeqId := s.nextSeqId + 1 }, r)

/-- The stack region, which is never removed (20_memory.md R73). -/
def isStackRegion (c : Config) (r : Region) : Bool :=
  decide (r.start = c.stackStart) && decide (r.stop = c.stackEnd)

/-- `RemoveExecutableRegions()`: drop the regions with Execute and truncate the buffer to base memory
(20_memory.md R78; the stack region stays, R73, log entry 5). -/
def State.removeExecutableRegions (s : State) : State :=
  { s with
    regions := s.regions.filter (fun r => !r.flags.execute || isStackRegion s.cfg r)
    memLen := s.cfg.baseMemorySize
    mem := s.mem.truncate s.cfg.baseMemorySize }

/-- `GetMemoryRegion(sequence_id)` (20_memory.md R78). -/
def State.getMemoryRegion (s : State) (seqId : Nat) : Option Region :=
  s.regions.find? (fun r => r.seqId == seqId)

/-- `Cpu.Reset` (70_reset_and_hazards.md R300). -/
def State.cpuReset (s : State) : State :=
  { s with regs := Regs.zero, halted := false, fault := none, fsz := 0, depth := 0 }

/-- `Reset()`: `Cpu.Reset`, then `Memory.ClearStack`; memory, regions and configuration stay
(70_reset_and_hazards.md R300). -/
def State.hostReset (s : State) : State := s.cpuReset.clearStack

/-- Construction: a configuration with illegal parameters is refused (00_scope.md R7;
70_reset_and_hazards.md R302; log entry 8). -/
def construct (c : Config) : Option State := if c.legal then some (State.constructed c) else none

/-- The host's System write of IP: the entry point (70_reset_and_hazards.md R303). -/
def State.setEntry (s : State) (a : Int) : State := s.setReg .ip (wrap32 a)

/-- A program was loaded before: the buffer has grown past base memory, which only `AddExecutableMemory`
does and removal undoes. DEDUCED from 20_memory.md R78 (log entry 28). -/
def State.programLoaded (s : State) : Bool := decide (s.cfg.baseMemorySize < s.memLen)

/-- Step 2 of the boot sequence: "If a program was loaded before, call `RemoveExecutableRegions()`"
(70_reset_and_hazards.md R303). -/
def State.unloadPrograms (s : State) : State :=
  if s.programLoaded then s.removeExecutableRegions else s

/-- Steps 1 to 4 of the boot sequence on an existing instance: Reset, drop the images loaded before,
load this one, and enter it at its first byte (70_reset_and_hazards.md R303). -/
def State.boot (s : State) (image : List Byte) : Option State :=
  match s.hostReset.unloadPrograms.addExecutableMemory image with
  | some (t, r) => some (t.setEntry r.start)
  | none => none

/-- The host's debugger registers its breakpoints and the answers of their callbacks
(40_cycle.md R147; log entry 9). -/
def State.setBreakpoints (s : State) (bs : List Breakpoint) : State :=
  { s with cfg := { s.cfg with breakpoints := bs } }

end Sys2Proof.Machine
end

