-- ==== Sys2Proof/Machine/Fetch.lean ====
section
/-! DEFINITION. Fetching an instruction (40_cycle.md R141-R143), the host's halt hook (R147), the
record of the decoded instruction (R149), and placing an image where the next step fetches. -/

namespace Sys2Proof.Machine

/-- The instruction bytes from an address: User context, execute fetch (40_cycle.md R141;
30_encoding.md R103). -/
def State.fetchReader (s : State) (a0 : Int) : Reader Fault := s.reader a0 .user true

/-- Steps 1 and 2: the opcode at IP and the instruction it names (40_cycle.md R141, R142). -/
def State.fetchOp (s : State) : Except Fault Op :=
  decodeOp s.cfg decodeFault (s.fetchReader (s.reg .ip).toInt)

/-- Step 4: the arguments, each read checked in turn (40_cycle.md R143). -/
def State.fetchRest (s : State) (o : Op) : Except Fault Instr :=
  decodeRest s.cfg decodeFault (s.fetchReader (s.reg .ip).toInt) o

/-- `HostHaltRequest(IP)`: a breakpoint at IP whose callback asks for a halt (40_cycle.md R147). DESIGN
CHOICE (log entry 9): a breakpoint of every type triggers here where its address is IP, since R147 leaves
the types open. -/
def State.haltRequested (s : State) : Bool :=
  s.cfg.breakpoints.any (fun b => decide (b.address = (s.reg .ip).toInt) && b.halts)

/-- Step 3 alone: IP past the opcode, where an argument fault leaves it (40_cycle.md R142, R143). -/
def State.pastOpcode (s : State) : State :=
  s.setReg .ip (wrap32 ((s.reg .ip).toInt + 4))

/-- The record of a decoded instruction (40_cycle.md R149). -/
structure DecodedInstr where
  address : Int
  opcode : Word
  instr : Instr
  length : Nat
  deriving DecidableEq, Repr

/-- The instruction that the next cycle decodes, if it decodes one: nothing is changed by asking
(40_cycle.md R148, R149). What `Step()` returns, the fault included, is `State.stepReturn`. -/
def State.decodedInstr (s : State) : Option DecodedInstr :=
  if s.halted || s.haltRequested then none
  else
    match s.fetchOp with
    | .error _ => none
    | .ok o =>
      match s.fetchRest o with
      | .error _ => none
      | .ok i => some ⟨(s.reg .ip).toInt, s.cfg.opcode o, i, i.length⟩

/-- A machine that the next cycle runs from `a`: IP at `a`, not halted, and no breakpoint there asks
for a halt. -/
def State.readyAt (s : State) (a : Int) : State :=
  { s.setEntry a with
    halted := false
    cfg := { s.cfg with breakpoints := s.cfg.breakpoints.filter (fun b => decide (b.address ≠ a)) } }

/-- Load an image and set the entry point to its first byte: the boot of
70_reset_and_hazards.md R303. A refused load leaves the state as it is. -/
def State.loadAndEnter (s : State) (bytes : List Byte) : State :=
  match s.addExecutableMemory bytes with
  | some (t, r) => t.readyAt r.start
  | none => s

end Sys2Proof.Machine
end

