-- ==== Sys2Proof/Machine/Step.lean ====
section
/-! DEFINITION. One step: one call of the host's `Step()`, which is one whole cycle
(40_cycle.md R140, R148, R150). -/

namespace Sys2Proof.Machine

/-- One cycle (40_cycle.md R150). A halted machine does nothing (R148); the host's halt request comes
before the fetch (R147); a fetch fault leaves IP at the opcode and an argument fault leaves it past
the opcode (60_exceptions.md R273); a decoded instruction runs (R144-R146). -/
def step (s : State) : Host.Outcome State Fault Refusal :=
  if s.halted then .next s
  else if s.haltRequested then .next { s with halted := true }
  else
    match s.fetchOp with
    | .error f => .next (s.takeFault (s.reg .ip).toInt f)
    | .ok o =>
      match s.fetchRest o with
      | .error f => .next (s.pastOpcode.takeFault (s.reg .ip).toInt f)
      | .ok i => exec i s

/-- The state with a table word's instruction placed where `step` fetches next: its bytes are loaded
as an executable region and IP is set to its start, as the host's boot does
(70_reset_and_hazards.md R303; log entry 4). -/
def State.withFetchWord (s : State) (nbits w : Nat) : State :=
  s.loadAndEnter (tableImage nbits w)

end Sys2Proof.Machine
end

