-- ==== Sys2Proof/Machine/Assembly.lean ====
section
/-! DEFINITION. The assembly syntax that fixes what the bytecode holds (00_scope.md R6): integer literals
(30_encoding.md R117), operand texts (R116), the instruction that a mnemonic and its operands select
(R118-R120), and the errors of assembly (R122). Lines, names and programs are in Machine/Program.lean,
the container is in Machine/Container.lean. Nothing in the cycle uses these files. A text is a list of
code points; the lexer that cuts a source into texts is host-side software, out of scope (log
entry 16). -/

namespace Sys2Proof.Machine

/-! ### The errors of assembly -/

/-- Why an assembly stops; every error is fatal before any byte runs (30_encoding.md R122). -/
inductive AsmError where
  /-- A bracketed text with a bracket missing or one too many. -/
  | mismatchedBrackets
  /-- A quoted text with a quote missing or one too many. -/
  | mismatchedString
  /-- A destination or reference whose name is no label name. -/
  | invalidLabel
  /-- A literal outside the grammar or the range of its kind. -/
  | invalidInteger
  /-- A register operand that names no register. -/
  | invalidRegister
  /-- No signature matches the mnemonic and its operands. -/
  | noSignature
  /-- Several labels bound to one instruction: an error of the quick parser alone
  (90_conflicts.md C7). -/
  | multipleLabels
  /-- A name defined twice. -/
  | duplicateLabel
  /-- A reference to a name that the program does not define. -/
  | unresolvedReference
  /-- A directive outside its syntax. -/
  | invalidDirective
  /-- A `TIMES` under a `TIMES`. -/
  | nestedTimes
  /-- A reference where the signature takes an argument that no label can be bound to. -/
  | nonBindable
  /-- An assembly-time expression outside its grammar or the range of an int. -/
  | invalidExpression
  deriving DecidableEq, Repr

/-- A value that must be there, or the error of its absence. -/
def required {α : Type} (e : AsmError) : Option α → Except AsmError α
  | some a => .ok a
  | none => .error e

/-- A function applied along a list; the first error ends it. -/
def mapAll {α β : Type} (f : α → Except AsmError β) : List α → Except AsmError (List β)
  | [] => .ok []
  | a :: as =>
    match f a with
    | .error e => .error e
    | .ok b =>
      match mapAll f as with
      | .error e => .error e
      | .ok bs => .ok (b :: bs)

/-! ### Characters -/

/-- The code points of some characters. -/
def codePoints (cs : List Char) : List Nat := cs.map Char.toNat

/-- The UTF-8 bytes of a code point (30_encoding.md R101, R121). -/
def utf8Char (c : Nat) : List Byte :=
  let tail := fun k : Nat => BitVec.ofNat 8 (0x80 + c / 64 ^ k % 64)
  if c < 0x80 then [BitVec.ofNat 8 c]
  else if c < 0x800 then [BitVec.ofNat 8 (0xC0 + c / 64), tail 0]
  else if c < 0x10000 then [BitVec.ofNat 8 (0xE0 + c / 64 ^ 2), tail 1, tail 0]
  else [BitVec.ofNat 8 (0xF0 + c / 64 ^ 3), tail 2, tail 1, tail 0]

/-- The UTF-8 bytes of a text. -/
def utf8 (cs : List Nat) : List Byte := cs.flatMap utf8Char

/-! ### Integer literals (30_encoding.md R116, R117) -/

/-- `$N`: a LiteralInteger. -/
def literalInteger : List Nat → Option Word
  | 0x24 :: cs => (numeral cs).map wrap32
  | _ => none

/-- `&$N`: a LiteralPointer; every negative form is rejected. -/
def literalPointer : List Nat → Option Word
  | 0x26 :: 0x24 :: 0x2D :: _ => none
  | 0x26 :: 0x24 :: cs => (numeral cs).map wrap32
  | _ => none

/-! ### Operand texts (30_encoding.md R116) -/

/-- The operand kinds. A text `[expr]` is deferred to compile time, as in the directive-aware parser, and
a reference (`@name`, `!name`) is filled in when every name is known. -/
inductive AsmOperand where
  | lit (v : Word)
  | ptr (a : Word)
  | reg (r : Reg)
  | regPtr (r : Reg)
  | expr (text : List Byte)
  | static (text : List Byte)
  | ref (name : List Nat)
  /-- A size hint: no instruction takes one (R108). -/
  | sizeHint (b : Byte)
  /-- A bare directive or label identifier: no instruction takes one. -/
  | ident (name : List Nat)
  deriving DecidableEq, Repr

/-- A character that may begin a label name: a letter or `_`. -/
def isNameStart (c : Nat) : Bool :=
  decide (0x41 ≤ c ∧ c ≤ 0x5A) || decide (0x61 ≤ c ∧ c ≤ 0x7A) || decide (c = 0x5F)

/-- A text that is a label name: a letter or `_`, then letters, `_` and digits. DESIGN CHOICE (log
entry 23): R122 names "invalid label syntax" and the spec gives no syntax. -/
def isLabelName : List Nat → Bool
  | [] => false
  | c :: cs => isNameStart c && cs.all (fun d => isNameStart d || decide (0x30 ≤ d ∧ d ≤ 0x39))

/-- A label name, or the error (R122). -/
def labelName (cs : List Nat) : Except AsmError (List Nat) :=
  if isLabelName cs then .ok cs else .error .invalidLabel

/-- The text before the `]` that closes a bracketed text; a missing bracket and one too many are the
error (R122). DESIGN CHOICE (log entry 16): a bracket inside a bracketed text is the same error even
where the brackets balance, as in `&[[R1]]`, since no term of an expression has one. -/
def insideBrackets (cs : List Nat) : Except AsmError (List Byte) :=
  let inner := cs.dropLast
  if cs.getLast? = some 0x5D ∧ 0x5B ∉ inner ∧ 0x5D ∉ inner then .ok (utf8 inner)
  else .error .mismatchedBrackets

/-- The byte that `SIZE_HINT_MAP` gives a name (00_scope.md R7; 30_encoding.md R108). -/
def sizeHintNamed (c : Config) (cs : List Nat) : Option Byte :=
  (c.sizeHintMap.find? (fun p => codePoints p.1.toList == cs)).map Prod.snd

/-- A bare identifier: the register names, then the size hints, then a directive or label identifier
(R116). -/
def parseBare (c : Config) (cs : List Nat) : Except AsmError AsmOperand :=
  match registerNamed cs with
  | some r => .ok (.reg r)
  | none =>
    match sizeHintNamed c cs with
    | some b => .ok (.sizeHint b)
    | none => if isLabelName cs then .ok (.ident cs) else .error .invalidRegister

/-- The operand a text is, by its sigil (R116). DESIGN CHOICE (log entry 31): `!name` stands wherever
`@name` does, in every argument that a label can be bound to; R116 gives it the "same resolution path as
labels", and R119 names it for `call` alone. -/
def parseOperand (c : Config) : List Nat → Except AsmError AsmOperand
  | 0x24 :: cs => (required .invalidInteger (literalInteger (0x24 :: cs))).map .lit
  | 0x26 :: 0x24 :: cs => (required .invalidInteger (literalPointer (0x26 :: 0x24 :: cs))).map .ptr
  | 0x26 :: 0x5B :: cs => (insideBrackets cs).map .expr
  | 0x26 :: cs => (required .invalidRegister (registerNamed cs)).map .regPtr
  | 0x5B :: cs => (insideBrackets cs).map .static
  | 0x40 :: cs => (labelName cs).map .ref
  | 0x21 :: cs => (labelName cs).map .ref
  | cs => parseBare c cs

/-! ### The instruction a mnemonic and its operands select (30_encoding.md R118-R120) -/

/-- The mnemonics of 30_encoding.md R119, and the pseudo-instruction `jmp` (R120). -/
inductive Mnemonic where
  | mov | add | sub | mul | div | mod
  | jne | jeq | jlt | jgt | jle | jge | jmp
  | push | pop | swap | call | ret
  | hlt | out | int
  deriving DecidableEq, Repr

/-- The instruction a mnemonic and its operands select, operands in encoding order; none where no
signature matches (30_encoding.md R118, R119). `jmp T` is `jeq AC, T` (R120). -/
def assemble : Mnemonic → List AsmOperand → Option Instr
  | .mov, [.lit v, .reg rd] => some (.movLitReg v rd)
  | .mov, [.reg rs, .reg rd] => some (.movRegReg rs rd)
  | .mov, [.lit v, .ptr a] => some (.movLitMem v a)
  | .mov, [.reg rs, .ptr a] => some (.movRegMem rs a)
  | .mov, [.ptr a, .reg rd] => some (.movMemReg a rd)
  | .mov, [.regPtr rp, .reg rd] => some (.movRegPtrReg rp rd)
  | .mov, [.expr e, .reg rd] => some (.movLitExpMemReg e rd)
  | .add, [.lit v, .reg r] => some (.addLitReg v r)
  | .add, [.reg ra, .reg rb] => some (.addRegReg ra rb)
  | .sub, [.lit v, .reg r] => some (.subLitReg v r)
  | .sub, [.reg ra, .reg rb] => some (.subRegReg ra rb)
  | .mul, [.lit v, .reg r] => some (.mulLitReg v r)
  | .mul, [.reg ra, .reg rb] => some (.mulRegReg ra rb)
  | .div, [.lit v, .reg r] => some (.divLitReg v r)
  | .div, [.reg ra, .reg rb] => some (.divRegReg ra rb)
  | .mod, [.lit v, .reg r] => some (.modLitReg v r)
  | .mod, [.reg ra, .reg rb] => some (.modRegReg ra rb)
  | .jne, [.lit v, .ptr a] => some (.jmpNotEq v a)
  | .jne, [.reg r, .ptr a] => some (.jneReg r a)
  | .jeq, [.lit v, .ptr a] => some (.jeqLit v a)
  | .jeq, [.reg r, .ptr a] => some (.jeqReg r a)
  | .jlt, [.lit v, .ptr a] => some (.jltLit v a)
  | .jlt, [.reg r, .ptr a] => some (.jltReg r a)
  | .jgt, [.lit v, .ptr a] => some (.jgtLit v a)
  | .jgt, [.reg r, .ptr a] => some (.jgtReg r a)
  | .jle, [.lit v, .ptr a] => some (.jleLit v a)
  | .jle, [.reg r, .ptr a] => some (.jleReg r a)
  | .jge, [.lit v, .ptr a] => some (.jgeLit v a)
  | .jge, [.reg r, .ptr a] => some (.jgeReg r a)
  | .jmp, [.ptr a] => some (.jeqReg .ac a)
  | .push, [.lit v] => some (.pushLit v)
  | .push, [.reg r] => some (.pushReg r)
  | .pop, [.reg r] => some (.popReg r)
  | .swap, [] => some .swap
  | .call, [.ptr a] => some (.callLit a)
  | .ret, [] => some .ret
  | .hlt, [] => some .hlt
  | .out, [.reg r, .lit v] => some (.outRegLit r v)
  | .int, [.lit v] => some (.intLit v)
  | _, _ => none

/-- How each mnemonic is written, in capitals. A mnemonic may stand in either case: DESIGN CHOICE (log
entry 16). -/
def mnemonicNames : List (List Nat × Mnemonic) :=
  [(codePoints ['M', 'O', 'V'], .mov), (codePoints ['A', 'D', 'D'], .add),
   (codePoints ['S', 'U', 'B'], .sub), (codePoints ['M', 'U', 'L'], .mul),
   (codePoints ['D', 'I', 'V'], .div), (codePoints ['M', 'O', 'D'], .mod),
   (codePoints ['J', 'N', 'E'], .jne), (codePoints ['J', 'E', 'Q'], .jeq),
   (codePoints ['J', 'L', 'T'], .jlt), (codePoints ['J', 'G', 'T'], .jgt),
   (codePoints ['J', 'L', 'E'], .jle), (codePoints ['J', 'G', 'E'], .jge),
   (codePoints ['J', 'M', 'P'], .jmp), (codePoints ['P', 'U', 'S', 'H'], .push),
   (codePoints ['P', 'O', 'P'], .pop), (codePoints ['S', 'W', 'A', 'P'], .swap),
   (codePoints ['C', 'A', 'L', 'L'], .call), (codePoints ['R', 'E', 'T'], .ret),
   (codePoints ['H', 'L', 'T'], .hlt), (codePoints ['O', 'U', 'T'], .out),
   (codePoints ['I', 'N', 'T'], .int)]

/-- The mnemonic a word names, or none. -/
def mnemonicNamed (cs : List Nat) : Option Mnemonic :=
  (mnemonicNames.find? (fun p => p.1 == cs.map upperCase)).map Prod.snd

/-- The operands a value of a reference may fill: a LiteralInteger, or a LiteralPointer unless it is
negative (R102, R115, R116), in that order (log entry 16). -/
def bindings (v : Int) : List AsmOperand :=
  (if intMin ≤ v ∧ v ≤ intMax then [.lit (wrap32 v)] else []) ++
    (if 0 ≤ v ∧ v ≤ intMax then [.ptr (wrap32 v)] else [])

/-- What each operand of a list may be, once references are given their candidates and deferred
expressions their values. -/
def operandForms (candidates : List Nat → Except AsmError (List AsmOperand))
    (value : List Byte → Except AsmError Word) : AsmOperand → Except AsmError (List AsmOperand)
  | .ref name => candidates name
  | .static text => (value text).map (fun v => [.lit v])
  | .lit v => .ok [.lit v]
  | .ptr a => .ok [.ptr a]
  | .reg r => .ok [.reg r]
  | .regPtr r => .ok [.regPtr r]
  | .expr text => .ok [.expr text]
  | .sizeHint b => .ok [.sizeHint b]
  | .ident name => .ok [.ident name]

/-- Every list that takes one operand from each list of candidates, the first candidates first. -/
def choices : List (List AsmOperand) → List (List AsmOperand)
  | [] => [[]]
  | os :: rest => os.flatMap (fun o => (choices rest).map (o :: ·))

/-- The first signature that one of the operand lists matches (R118). -/
def firstMatch (m : Mnemonic) (forms : List (List AsmOperand)) : Option Instr :=
  (choices forms).findSome? (assemble m)

/-- A reference as an argument of a kind that a label can be bound to, and as one of every kind
(R115). -/
def bindableForms : List AsmOperand := [.lit 0, .ptr 0]

def anyForms : List AsmOperand := bindableForms ++ [.reg .r1, .regPtr .r1, .expr []]

/-- Why no signature matches: a reference bound to an argument of another kind, or, where every kind
fits, a value that the argument cannot hold, as a negative one in a pointer (R102, R122). -/
def mismatch (m : Mnemonic) (operands : List AsmOperand) : AsmError :=
  let fits := fun (refs : List AsmOperand) =>
    match mapAll (operandForms (fun _ => .ok refs) (fun _ => .ok 0)) operands with
    | .ok forms => (firstMatch m forms).isSome
    | .error _ => false
  if fits bindableForms then .invalidInteger
  else if fits anyForms then .nonBindable
  else .noSignature

/-- The instruction a mnemonic and its operands select, references and deferred expressions filled in;
a text too long for its length prefix has no encoding (R107). -/
def selectInstr (candidates : List Nat → Except AsmError (List AsmOperand))
    (value : List Byte → Except AsmError Word) (m : Mnemonic) (operands : List AsmOperand) :
    Except AsmError Instr :=
  match mapAll (operandForms candidates value) operands with
  | .error e => .error e
  | .ok forms =>
    match firstMatch m forms with
    | some i => if i.wellFormed then .ok i else .error .invalidExpression
    | none => .error (mismatch m operands)

/-- The size of an instruction whose names are not known yet: it is the same whatever their values
(R109). -/
def operandsSize (m : Mnemonic) (operands : List AsmOperand) : Except AsmError Nat :=
  (selectInstr (fun _ => .ok bindableForms) (fun _ => .ok 0) m operands).map Instr.length

end Sys2Proof.Machine
end

