-- ==== Sys2Proof/Machine/Program.lean ====
section
/-! DEFINITION. Programs in assembly: the lines, pseudo-instructions and directives (30_encoding.md R120,
R121), names and relocation (R115), and the code and data sections a program becomes (R114). -/

namespace Sys2Proof.Machine

/-! ### Lines (30_encoding.md R116, R120, R121) -/

/-- A directive that `TIMES` may repeat. -/
inductive AsmDirective where
  /-- `EQU`: a name and the text of its value. -/
  | equ (name : List Nat) (value : List Byte)
  /-- `DB`: its items' bytes, concatenated in order. -/
  | db (bytes : List Byte)
  deriving DecidableEq, Repr

/-- One line of a program. -/
inductive AsmLine where
  /-- `LABEL`: it records the current position and emits no bytes (R120). -/
  | label (name : List Nat)
  /-- `name:`, the pseudo-instruction `SUBROUTINE`, with its hidden sequential id (R120). -/
  | subroutine (name : List Nat) (id : Nat)
  | code (m : Mnemonic) (operands : List AsmOperand)
  /-- A directive, once or under `TIMES` and the text of its count (R121). -/
  | directive (count : Option (List Byte)) (d : AsmDirective)
  deriving DecidableEq, Repr

/-- The words that begin a directive or a label line, in capitals; they may stand in either case
(log entry 16). -/
def wordDb : List Nat := codePoints ['D', 'B']

def wordEqu : List Nat := codePoints ['E', 'Q', 'U']

def wordTimes : List Nat := codePoints ['T', 'I', 'M', 'E', 'S']

def wordLabel : List Nat := codePoints ['L', 'A', 'B', 'E', 'L']

/-- One item of `DB`: a quoted string, UTF-8 encoded, or a `$` byte literal (R121). That a byte literal
lies from 0 to 255, that a string has no escapes and that the quote is `"` alone is a DESIGN CHOICE (log
entry 25). -/
def dbItem : List Nat → Except AsmError (List Byte)
  | 0x22 :: cs =>
    if cs.getLast? = some 0x22 ∧ 0x22 ∉ cs.dropLast then .ok (utf8 cs.dropLast)
    else .error .mismatchedString
  | 0x24 :: cs =>
    match numeral cs with
    | some v => if 0 ≤ v ∧ v ≤ 255 then .ok [BitVec.ofInt 8 v] else .error .invalidInteger
    | none => .error .invalidInteger
  | _ => .error .invalidDirective

/-- A directive other than `TIMES`, from the word that begins it and the texts after it. A `TIMES` here
is under another one: "only one level of nesting permitted" (R121, R122). DESIGN CHOICE (log entry 25):
the textual form of directives, which the spec leaves open: the directive's word first, `EQU` followed by
the name and the whole value as one text, `DB` by its items. -/
def parseDirective (head : List Nat) (texts : List (List Nat)) : Except AsmError AsmDirective :=
  if head = wordDb then
    if texts.isEmpty then .error .invalidDirective
    else (mapAll dbItem texts).map (fun bs => .db bs.flatten)
  else if head = wordEqu then
    match texts with
    | [name, value] => (labelName name).map (fun n => .equ n (utf8 value))
    | _ => .error .invalidDirective
  else if head = wordTimes then .error .nestedTimes
  else .error .invalidDirective

/-- `TIMES count directive`, from the texts after `TIMES` (R121). -/
def parseTimes : List (List Nat) → Except AsmError AsmLine
  | count :: head :: texts =>
    (parseDirective (head.map upperCase) texts).map (.directive (some (utf8 count)))
  | _ => .error .invalidDirective

/-- `LABEL name`, from the texts after `LABEL` (R120). -/
def parseLabel : List (List Nat) → Except AsmError AsmLine
  | [name] => (labelName name).map .label
  | _ => .error .invalidLabel

/-- An instruction, from its mnemonic and the texts of its operands (R118, R119). -/
def parseCode (c : Config) (head : List Nat) (texts : List (List Nat)) : Except AsmError AsmLine :=
  match mnemonicNamed head with
  | none => .error .noSignature
  | some m => (mapAll (parseOperand c) texts).map (.code m)

/-- A line that no destination marker begins, from its first text and the texts after it. -/
def parseStatement (c : Config) (head : List Nat) (texts : List (List Nat)) :
    Except AsmError AsmLine :=
  let word := head.map upperCase
  if word = wordLabel then parseLabel texts
  else if word = wordTimes then parseTimes texts
  else if word = wordDb ∨ word = wordEqu then (parseDirective word texts).map (.directive none)
  else parseCode c head texts

/-- The lines that a line of texts stands for; `id` is the next id of a subroutine. A line of no texts is
blank. What follows `name:` is as if it stood on the next line: DEDUCED from the listings of
95_test_vectors.md P2, P3 and P5, as `loop: add $1, R3` (log entry 29). -/
def parseLine (c : Config) : Nat → List (List Nat) → Except AsmError (List AsmLine)
  | _, [] => .ok []
  | id, head :: texts =>
    if head.getLast? = some 0x3A then
      match labelName head.dropLast with
      | .error e => .error e
      | .ok name => (parseLine c (id + 1) texts).map (.subroutine name id :: ·)
    else (parseStatement c head texts).map ([·])

/-- Whether a line is a subroutine marker. -/
def isSubroutine : AsmLine → Bool
  | .subroutine _ _ => true
  | .label _ | .code _ _ | .directive _ _ => false

/-- The lines of a source whose lines are lists of texts. Subroutine ids count from `id` on. -/
def parseLines (c : Config) : Nat → List (List (List Nat)) → Except AsmError (List AsmLine)
  | _, [] => .ok []
  | id, texts :: source =>
    match parseLine c id texts with
    | .error e => .error e
    | .ok ls => (parseLines c (id + ls.countP isSubroutine) source).map (ls ++ ·)

/-- Whether an operand is a reference, which binds a label to its argument (R115). -/
def isReference : AsmOperand → Bool
  | .ref _ => true
  | .lit _ | .ptr _ | .reg _ | .regPtr _ | .expr _ | .static _ | .sizeHint _ | .ident _ => false

/-- How many labels are bound to the arguments of a line: each reference binds one, and "each label fills
one argument's 4 bytes" (R115; 90_conflicts.md C7). -/
def boundLabels : AsmLine → Nat
  | .code _ operands => operands.countP isReference
  | .label _ | .subroutine _ _ | .directive _ _ => 0

/-- The limit of the quick parser: at most one label bound to an instruction. The directive-aware parser
has no such limit (R122; 90_conflicts.md C7). -/
def quickLimit (lines : List AsmLine) : Except AsmError Unit :=
  if lines.any (fun l => decide (1 < boundLabels l)) then .error .multipleLabels else .ok ()

/-! ### Names and assembly-time expressions (30_encoding.md R115, R120, R121) -/

/-- The absolute address of a label. -/
def relocate (destinationPosition metaSectionEnd initialLoadAddress : Int) : Int :=
  destinationPosition - metaSectionEnd + initialLoadAddress

/-- The names defined so far: labels and subroutines with their addresses, `EQU` names with their
values. -/
abbrev AsmNames := List (List Nat × Int)

/-- The value of a name, or none. -/
def nameValue (names : AsmNames) (name : List Nat) : Option Int :=
  (names.find? (fun p => p.1 == name)).map Prod.snd

/-- A new name; defining one twice is an error (R120, R122). DESIGN CHOICE (log entry 24): `EQU` names
share one namespace with labels and cannot be defined again; the spec states uniqueness for label names
among destinations. -/
def defineName (names : AsmNames) (name : List Nat) (v : Int) : Except AsmError AsmNames :=
  if (nameValue names name).isSome then .error .duplicateLabel else .ok (names ++ [(name, v)])

/-- The value of a word at assembly time: `#` is the current stream position, then a numeral, then a
name; a register has no value here (R121; 41_data_movement.md R168). DESIGN CHOICE (log entry 30): a
label is worth its relocated address, as in a reference, while `#` is the position as it stands. -/
def staticTerm (names : AsmNames) (position : Nat) (cs : List Nat) : Option Int :=
  if cs = [0x23] then some position
  else
    match numeral cs with
    | some v => some v
    | none => nameValue names cs

/-- A token that is a name nothing defines. -/
def isUnknownName (names : AsmNames) : Token → Bool
  | .word cs => isLabelName cs && (nameValue names cs).isNone
  | .plus | .lpar | .rpar => false

/-- The value of an expression at assembly time: "every operand must be statically known"
(R116, R121; 41_data_movement.md R168). -/
def staticValue (names : AsmNames) (position : Nat) (text : List Byte) : Except AsmError Int :=
  match (evalTokens (staticTerm names position) false 0 0 (tokens text)).bind inIntRange with
  | some v => .ok v
  | none =>
    if (tokens text).any (isUnknownName names) then .error .unresolvedReference
    else .error .invalidExpression

/-! ### Placing the lines (30_encoding.md R114, R115) -/

/-- The two sections a program emits into. -/
inductive ProgramSection where
  | text
  | data
  deriving DecidableEq, Repr

/-- The section a line emits into, if it emits: `DB` blobs go to the data section, after all code. DESIGN
CHOICE (log entry 27): a `DB` counts as a line that emits even where it emits no bytes, under a `TIMES`
of 0 or with empty strings alone. -/
def lineSection : AsmLine → Option ProgramSection
  | .code _ _ => some .text
  | .directive _ (.db _) => some .data
  | .directive _ (.equ _ _) | .label _ | .subroutine _ _ => none

/-- An instruction and the stream position it is placed at. -/
structure PlacedInstr where
  position : Nat
  mnemonic : Mnemonic
  operands : List AsmOperand
  deriving DecidableEq, Repr

/-- What has been placed: the names, the next position of each section, the section of the last line
that emitted, the instructions, and the data bytes. -/
structure Layout where
  names : AsmNames
  nextText : Nat
  nextData : Nat
  latest : ProgramSection
  placed : List PlacedInstr
  data : List Byte
  deriving DecidableEq, Repr

/-- The current stream position before some lines: where the next line that emits will emit. After the
last such line it stays in its section. DESIGN CHOICE (log entry 27). -/
def Layout.position (y : Layout) (lines : List AsmLine) : Nat :=
  match (lines.findSome? lineSection).getD y.latest with
  | .text => y.nextText
  | .data => y.nextData

/-- A name with a value. -/
def Layout.define (y : Layout) (name : List Nat) (v : Int) : Except AsmError Layout :=
  (defineName y.names name v).map (fun names => { y with names := names })

/-- Some data bytes at the end of the data section. -/
def Layout.emitData (y : Layout) (bs : List Byte) : Layout :=
  { y with nextData := y.nextData + bs.length, latest := .data, data := y.data ++ bs }

/-- An instruction of some size at the end of the code section. -/
def Layout.emitInstr (y : Layout) (m : Mnemonic) (operands : List AsmOperand) (size : Nat) : Layout :=
  { y with
    nextText := y.nextText + size
    latest := .text
    placed := y.placed ++ [⟨y.nextText, m, operands⟩] }

/-- A directive, once (R121). -/
def Layout.placeDirective (y : Layout) (position : Nat) : AsmDirective → Except AsmError Layout
  | .equ name value =>
    match staticValue y.names position value with
    | .error e => .error e
    | .ok v => y.define name v
  | .db bytes => .ok (y.emitData bytes)

/-- A directive repeated. -/
def Layout.placeTimes (y : Layout) (position : Nat) (d : AsmDirective) : Nat → Except AsmError Layout
  | 0 => .ok y
  | n + 1 =>
    match y.placeTimes position d n with
    | .error e => .error e
    | .ok y' => y'.placeDirective position d

/-- The repeat count of a line: 1 without `TIMES`. DESIGN CHOICE (log entry 25): a count of 0 repeats
nothing and a negative one is an invalid directive, since the spec gives neither a meaning. -/
def repeatCount (names : AsmNames) (position : Nat) : Option (List Byte) → Except AsmError Nat
  | none => .ok 1
  | some count =>
    match staticValue names position count with
    | .error e => .error e
    | .ok n => if 0 ≤ n then .ok n.toNat else .error .invalidDirective

/-- The stream position where the meta section ends and the code section begins: three int32 words, the
GUID and the eight version numbers come before it (30_encoding.md R114). -/
def metaSectionEnd : Nat := 60

/-- One line, before the lines `rest`. A label's address is its position relocated against
`INITIAL_LOAD_ADDRESS` (R115). -/
def Layout.placeLine (c : Config) (y : Layout) (l : AsmLine) (rest : List AsmLine) :
    Except AsmError Layout :=
  let position := y.position (l :: rest)
  match l with
  | .label name => y.define name (relocate position metaSectionEnd c.initialLoadAddress)
  | .subroutine name _ => y.define name (relocate position metaSectionEnd c.initialLoadAddress)
  | .code m operands => (operandsSize m operands).map (y.emitInstr m operands)
  | .directive count d =>
    match repeatCount y.names position count with
    | .error e => .error e
    | .ok n => y.placeTimes position d n

/-- Every line in turn. -/
def Layout.placeLines (c : Config) : Layout → List AsmLine → Except AsmError Layout
  | y, [] => .ok y
  | y, l :: ls =>
    match y.placeLine c l ls with
    | .error e => .error e
    | .ok y' => y'.placeLines c ls

/-- The size of the code section: that of every instruction, whatever the names are. -/
def textSize : List AsmLine → Except AsmError Nat
  | [] => .ok 0
  | .code m operands :: ls =>
    match operandsSize m operands with
    | .error e => .error e
    | .ok n => (textSize ls).map (n + ·)
  | .label _ :: ls => textSize ls
  | .subroutine _ _ :: ls => textSize ls
  | .directive _ _ :: ls => textSize ls

/-! ### The code and data sections -/

/-- A reference's candidates once every name is known; an unresolved one is an error (R120, R122). -/
def resolveRef (names : AsmNames) (name : List Nat) : Except AsmError (List AsmOperand) :=
  (required .unresolvedReference (nameValue names name)).map bindings

/-- The bytes of a placed instruction, under the configuration's opcode and register maps
(00_scope.md R7; 30_encoding.md R100). DESIGN CHOICE (log entry 27): in an operand `[expr]`, `#` is the
position of the instruction's first byte; R121 speaks of `#` in `EQU` alone. -/
def PlacedInstr.bytes (c : Config) (names : AsmNames) (p : PlacedInstr) :
    Except AsmError (List Byte) :=
  (selectInstr (resolveRef names)
    (fun text => (staticValue names p.position text).map wrap32) p.mnemonic p.operands).map
      (encodeWith c)

/-- An assembled program: its code section and its data section. -/
structure Assembled where
  code : List Byte
  data : List Byte
  deriving DecidableEq, Repr

/-- The image the host loads: the code section followed by the data section (30_encoding.md R114;
70_reset_and_hazards.md R303). -/
def Assembled.image (p : Assembled) : List Byte := p.code ++ p.data

/-- The sections of a program. All names are placed before any instruction is emitted, so that a forward
reference "resolves to the same final address as if it had been defined first" (R115). -/
def assembleLines (c : Config) (lines : List AsmLine) : Except AsmError Assembled :=
  match textSize lines with
  | .error e => .error e
  | .ok size =>
    match Layout.placeLines c ⟨[], metaSectionEnd, metaSectionEnd + size, .text, [], []⟩ lines with
    | .error e => .error e
    | .ok y =>
      (mapAll (PlacedInstr.bytes c y.names) y.placed).map (fun bs => ⟨bs.flatten, y.data⟩)

/-- The sections of a source, its lines cut into texts, as the directive-aware parser reads it. -/
def assembleProgram (c : Config) (source : List (List (List Nat))) : Except AsmError Assembled :=
  match parseLines c 0 source with
  | .error e => .error e
  | .ok lines => assembleLines c lines

/-- The sections of a source under the quick parser's limit. "The limit does not change any bytecode"
(R122): where this answers sections, they are those of `assembleProgram`. -/
def assembleQuick (c : Config) (source : List (List (List Nat))) : Except AsmError Assembled :=
  match parseLines c 0 source with
  | .error e => .error e
  | .ok lines =>
    match quickLimit lines with
    | .error e => .error e
    | .ok _ => assembleLines c lines

end Sys2Proof.Machine
end

