-- ==== Sys2Proof/Machine/Container.lean ====
section
/-! DEFINITION. The binary container: "written by the Assembler, read by VM load" (30_encoding.md R114).
The source gives no value for the magic number and the section ids, so they are data here. What else
the rule leaves open is log entry 26. -/

namespace Sys2Proof.Machine

/-- The values the source does not give: the magic number and the ids of the sections. -/
structure ContainerFormat where
  magic : Word
  metaId : Word
  textId : Word
  dataId : Word
  deriving DecidableEq, Repr

/-- The meta section: a GUID of 16 bytes, and the four int32 of the file's and the compiler's
version. -/
structure MetaSection where
  guid : Vector Byte 16
  fileVersion : Vector Word 4
  compilerVersion : Vector Word 4
  deriving DecidableEq, Repr

/-- The bytes of the meta section. -/
def metaSectionBytes (i : MetaSection) : List Byte :=
  i.guid.toList ++ i.fileVersion.toList.flatMap bytesLe32 ++ i.compilerVersion.toList.flatMap bytesLe32

/-- One row of the section table. -/
structure SectionRow where
  id : Word
  start : Nat
  length : Nat
  deriving DecidableEq, Repr

/-- The bytes of one row. -/
def sectionRowBytes (r : SectionRow) : List Byte :=
  bytesLe32 r.id ++ bytesLe32 (BitVec.ofNat 32 r.start) ++ bytesLe32 (BitVec.ofNat 32 r.length)

/-- The bytes before the meta section: magic number, pointer to the section table, load address. -/
def containerHeaderSize : Nat := 12

/-- The rows of the section table: each section the stream holds, at its position in the stream. Meta,
code and data are listed even when empty; RData and BSS, which nothing emits into, are not. DESIGN
CHOICE (log entry 26). -/
def sectionRows (f : ContainerFormat) (p : Assembled) : List SectionRow :=
  [⟨f.metaId, containerHeaderSize, metaSectionEnd - containerHeaderSize⟩,
   ⟨f.textId, metaSectionEnd, p.code.length⟩,
   ⟨f.dataId, metaSectionEnd + p.code.length, p.data.length⟩]

/-- The byte offset of the section table: of its `section_count`. DESIGN CHOICE (log entry 26). -/
def sectionTableOffset (p : Assembled) : Nat := metaSectionEnd + p.code.length + p.data.length

/-- The container of an assembled program, in stream order. -/
def containerBytes (c : Config) (f : ContainerFormat) (i : MetaSection) (p : Assembled) : List Byte :=
  bytesLe32 f.magic ++ bytesLe32 (BitVec.ofNat 32 (sectionTableOffset p)) ++
    bytesLe32 (BitVec.ofNat 32 c.initialLoadAddress) ++ metaSectionBytes i ++ p.code ++ p.data ++
    bytesLe32 (BitVec.ofNat 32 (sectionRows f p).length) ++ (sectionRows f p).flatMap sectionRowBytes

/-- The int32 at an offset, read as a position or a count. -/
def natAt (bs : List Byte) (off : Nat) : Nat := leNat ((bs.drop off).take 4)

/-- `n` rows of a section table from an offset. -/
def readSectionRows (bs : List Byte) : Nat → Nat → List SectionRow
  | _, 0 => []
  | off, n + 1 =>
    ⟨BitVec.ofNat 32 (natAt bs off), natAt bs (off + 4), natAt bs (off + 8)⟩ ::
      readSectionRows bs (off + 12) n

/-- Some bytes of a container, or none where it ends before them. DESIGN CHOICE (log entry 26): a
container that is too short is refused. -/
def sliceOf (bs : List Byte) (start length : Nat) : Option (List Byte) :=
  if start + length ≤ bs.length then some ((bs.drop start).take length) else none

/-- The bytes of the section with an id, by its first row; none where the table has no row for it, or
the row runs past the end of the container. -/
def readSection (bs : List Byte) (rows : List SectionRow) (id : Word) : Option (List Byte) :=
  (rows.find? (fun r => r.id == id)).bind (fun r => sliceOf bs r.start r.length)

/-- The code and data sections that a load reads from a container; none where the magic number is
another, the section table runs past the end, or a section is missing. -/
def readContainer (f : ContainerFormat) (bs : List Byte) : Option Assembled :=
  let table := natAt bs 4
  let count := natAt bs table
  let rows := readSectionRows bs (table + 4) count
  if bs.take 4 = bytesLe32 f.magic ∧ table + 4 + 12 * count ≤ bs.length then
    match readSection bs rows f.textId, readSection bs rows f.dataId with
    | some code, some data => some ⟨code, data⟩
    | _, _ => none
  else none

end Sys2Proof.Machine
end

