-- ==== Sys2Proof/Machine/HostStep.lean ====
section
/-! DEFINITION. What the host's `Step()` returns: "the decoded instruction or the fault"
(60_exceptions.md R286; 40_cycle.md R148, R149). -/

namespace Sys2Proof.Machine

/-- What `Step()` returns. -/
inductive StepReturn where
  /-- No instruction was decoded and no fault was taken: the machine was halted, or the host asked for
  a halt. -/
  | nothing
  /-- The record of the instruction that ran. -/
  | decoded (d : DecodedInstr)
  /-- The fault the cycle took, whether it decoded an instruction or not. -/
  | fault (r : FaultRecord)
  deriving DecidableEq, Repr

/-- What `Step()` returns on a state. The record of an earlier fault is set aside, so that a record after
the cycle is that of the cycle; no cycle reads it. -/
def State.stepReturn (s : State) : StepReturn :=
  match step { s with fault := none } with
  | .next t =>
    match t.fault with
    | some r => .fault r
    | none =>
      match s.decodedInstr with
      | some d => .decoded d
      | none => .nothing
  | .fault _ => .nothing
  | .refused _ => .nothing

end Sys2Proof.Machine
end

