-- ==== Sys2Proof/Safety.lean ====
section
/-! DEFINITION. What counts as a safe run, the invariants of the machine, and the vocabulary the
statements are written in. -/

namespace Sys2Proof.Machine

/-! ### Runs and how they end -/

/-- A bad end (40_cycle.md R151): the record holds a fault. -/
def Faulted (s : State) : Prop := s.fault ≠ none

/-- No run from the state reaches a fault. -/
def SafeFrom (s : State) : Prop :=
  ∀ n t, Sys2Proof.core.run n s = .next t → ¬ Faulted t

/-- `Run()`: cycles until halted (40_cycle.md R148). -/
def RunsTo (s t : State) : Prop := ∃ n, Sys2Proof.core.run n s = .next t ∧ t.halted = true

/-- The four kinds of end (40_cycle.md R151). -/
inductive EndKind where
  | byHlt
  | atRegionEnd
  | byHost
  | faulted
  deriving DecidableEq, Repr

/-- The kind of end the last cycle reached, from the states before and after it (40_cycle.md R151);
none while the machine runs, or if it was halted before. An HLT that is the last instruction of its
region meets two rows of R151's table, which gives no precedence: the answer is `byHlt`, a DESIGN CHOICE
(log entry 22). -/
def endKind (before after : State) : Option EndKind :=
  if before.halted || !after.halted then none
  else if after.fault.isSome then some .faulted
  else if before.haltRequested then some .byHost
  else
    match before.decodedInstr with
    | some d => if d.instr = .hlt then some .byHlt else some .atRegionEnd
    | none => none

/-! ### Invariants -/

/-- The memory keeps its canonical form, inside the buffer (20_memory.md R63). -/
def MemoryInv (s : State) : Prop := s.mem.wf ∧ ∀ c ∈ s.mem, c.1 < s.memLen

/-- The region invariants: bounds inside the buffer, and no two overlap (20_memory.md R62). -/
def RegionsInv (s : State) : Prop :=
  (∀ r ∈ s.regions, r.start < r.stop ∧ r.stop ≤ s.memLen) ∧
    s.regions.Pairwise (fun r r' => r.stop ≤ r'.start ∨ r'.stop ≤ r.start)

/-- The stack pointer stays on a slot boundary of the stack (20_memory.md R74). -/
def StackInv (s : State) : Prop :=
  (s.cfg.stackStart : Int) ≤ s.msp ∧ s.msp ≤ s.cfg.stackEnd ∧ (s.cfg.stackEnd - s.msp) % 4 = 0

/-- The debug shadow list holds one marker per live slot (20_memory.md R80). -/
def ShadowInv (s : State) : Prop :=
  s.cfg.debugStackTypes = true → 4 * (s.stackTypes.length : Int) = s.cfg.stackEnd - s.msp

/-- SP is `msp` from the first stack instruction on, and 0 with an empty stack before it
(10_state.md R32). -/
def MirrorInv (s : State) : Prop :=
  s.fault = none → s.reg .sp = wrap32 s.msp ∨ (s.reg .sp = 0 ∧ s.msp = s.cfg.stackEnd)

/-- A recorded fault goes with a halted machine (60_exceptions.md R271). -/
def FaultHalts (s : State) : Prop := Faulted s → s.halted = true

/-! ### What a step keeps -/

/-- Every register outside a list is unchanged. -/
def regsKept (s t : State) (rs : List Reg) : Prop := ∀ r, r ∉ rs → t.reg r = s.reg r

/-- Every byte of memory reads as before. -/
def memoryKept (s t : State) : Prop := ∀ b : Nat, t.mem.read b = s.mem.read b

/-- Every byte of memory outside `n` bytes from `a` reads as before. -/
def memoryKeptOutside (s t : State) (a n : Nat) : Prop :=
  ∀ b : Nat, (b < a ∨ a + n ≤ b) → t.mem.read b = s.mem.read b

/-- The stack state of CPU and memory manager is unchanged. -/
def stackKept (s t : State) : Prop :=
  t.msp = s.msp ∧ t.stackTypes = s.stackTypes ∧ t.fsz = s.fsz ∧ t.depth = s.depth

/-- What only the host writes is unchanged (10_state.md R37). -/
def hostKept (s t : State) : Prop :=
  t.cfg = s.cfg ∧ t.regions = s.regions ∧ t.memLen = s.memLen ∧ t.nextSeqId = s.nextSeqId

/-! ### Values and addresses -/

/-- The word four bytes of memory hold (20_memory.md R70). -/
def wordAt (s : State) (a : Nat) : Word :=
  le32 [s.mem.read a, s.mem.read (a + 1), s.mem.read (a + 2), s.mem.read (a + 3)]

/-- Four bytes of memory hold a word, the least significant first (20_memory.md R70). -/
def holdsWord (s : State) (a : Nat) (v : Word) : Prop :=
  ∀ k, k < 4 → s.mem.read (a + k) = v.extractLsb' (8 * k) 8

/-- The address of the instruction at which a cycle begins: `a0`. -/
def opcodeAddress (s : State) : Int := (s.reg .ip).toInt

/-- The address after an instruction at IP (40_cycle.md R143). -/
def nextAddress (i : Instr) (s : State) : Word := wrap32 (opcodeAddress s + i.length)

/-- What an instruction reads in a register: IP already holds the address after the instruction
(00_scope.md R11). -/
def operandOf (i : Instr) (s : State) (r : Reg) : Word :=
  if r = .ip then nextAddress i s else s.reg r

/-- The fault of a data access of `n` bytes, if it has one: resolution, then the region bound, then the
permission (20_memory.md R65-R68). -/
def accessFault (s : State) (access : Access) (ctx : Context) (a : Int) (n : Nat) : Option Fault :=
  match s.resolve a with
  | none => some (.memoryOutOfRange a)
  | some r =>
    if (r.stop : Int) < a + n ∨ permitted access ctx r.flags = false then
      some (.memoryAccessViolation a access ctx)
    else none

/-- The fault of a fetch of `n` instruction bytes, if it has one: resolution, the region bound,
PublicRead, then Execute (20_memory.md R66, R68; 40_cycle.md R141). -/
def fetchFault (s : State) (a : Int) (n : Nat) : Option Fault :=
  match s.resolve a with
  | none => some (.memoryOutOfRange a)
  | some r =>
    if (r.stop : Int) < a + n ∨ r.flags.publicRead = false then
      some (.memoryAccessViolation a .read .user)
    else if r.flags.execute = false then some (.memoryAccessViolation a .execute .user)
    else none

/-- The markers after `n` pushes (20_memory.md R75, R80). -/
def markersPushed (s : State) (n : Nat) : List StackType :=
  if s.cfg.debugStackTypes then s.stackTypes ++ List.replicate n .int else s.stackTypes

/-- The markers after `n` pops (20_memory.md R76, R80). -/
def markersPopped (s : State) (n : Nat) : List StackType :=
  if s.cfg.debugStackTypes then s.stackTypes.take (s.stackTypes.length - n) else s.stackTypes

/-! ### How an instruction ends -/

/-- The instruction completed: no fault is recorded, PC counts it, and the machine is halted exactly if
it was, or the instruction asked for it, or IP is at or past the end of the fetch region
(40_cycle.md R144, R146). -/
def Completed (s t : State) (haltRequested : Bool) : Prop :=
  t.fault = s.fault ∧ t.reg .pc = wrap32 ((s.reg .pc).toInt + 1) ∧
    (t.halted = true ↔
      s.halted = true ∨ haltRequested = true ∨
        ∃ fr, s.resolve (opcodeAddress s) = some fr ∧ (fr.stop : Int) ≤ (t.reg .ip).toInt) ∧
    hostKept s t

/-- A fault was taken in the cycle (60_exceptions.md R271). -/
def FaultTaken (s t : State) (f : Fault) : Prop :=
  t.fault = some ⟨f, opcodeAddress s⟩ ∧ t.halted = true ∧ t.reg .pc = s.reg .pc ∧ hostKept s t

/-- The instruction only takes a fault: beside what taking it does, IP is past the instruction and
nothing else changes (60_exceptions.md R272, R273). -/
def OnlyFaults (i : Instr) (s : State) (f : Fault) : Prop :=
  ∃ t, exec i s = .next t ∧ FaultTaken s t f ∧ t.reg .ip = nextAddress i s ∧
    regsKept s t [.ip] ∧ memoryKept s t ∧ stackKept s t ∧ t.trace = s.trace

/-- The instruction completes, goes on at the next instruction, and changes nothing but PC, IP and one
destination register. -/
def CompletesInto (i : Instr) (s : State) (rd : Reg) (v : Word) : Prop :=
  ∃ t, exec i s = .next t ∧ Completed s t false ∧ t.reg .ip = nextAddress i s ∧ t.reg rd = v ∧
    regsKept s t [rd, .ip, .pc] ∧ memoryKept s t ∧ stackKept s t ∧ t.trace = s.trace

/-- The instruction completes, goes on at the next instruction, and stores one word at an address: it
changes nothing but PC, IP and those four bytes. -/
def CompletesStoring (i : Instr) (s : State) (a : Int) (v : Word) : Prop :=
  ∃ t, exec i s = .next t ∧ Completed s t false ∧ t.reg .ip = nextAddress i s ∧
    holdsWord t a.toNat v ∧ memoryKeptOutside s t a.toNat 4 ∧ regsKept s t [.ip, .pc] ∧
    stackKept s t ∧ t.trace = s.trace

/-- The instruction completes with an arithmetic result (42_arithmetic.md R181): AC, and S, Z and O of
FL; every other bit of FL and everything else but PC and IP is unchanged. -/
def CompletesArith (i : Instr) (s : State) (w : Int) : Prop :=
  ∃ t, exec i s = .next t ∧ Completed s t false ∧ t.reg .ip = nextAddress i s ∧
    t.reg .ac = wrap32 w ∧
    (t.reg .fl).getLsbD s.cfg.flLayout.s = decide ((wrap32 w).toInt < 0) ∧
    (t.reg .fl).getLsbD s.cfg.flLayout.z = decide ((wrap32 w).toInt = 0) ∧
    (t.reg .fl).getLsbD s.cfg.flLayout.o = decide (w < -2147483648 ∨ w > 2147483647) ∧
    (∀ j : Fin 32, j ≠ s.cfg.flLayout.s → j ≠ s.cfg.flLayout.z → j ≠ s.cfg.flLayout.o →
      (t.reg .fl).getLsbD j = (s.reg .fl).getLsbD j) ∧
    regsKept s t [.ac, .fl, .ip, .pc] ∧ memoryKept s t ∧ stackKept s t ∧ t.trace = s.trace

/-- The instruction completes as a jump: if `taken`, IP is the target plus its bias, else the next
instruction; nothing but PC and IP changes (43_jumps.md R200). -/
def CompletesJump (i : Instr) (s : State) (taken : Prop) (target : Word) : Prop :=
  ∃ t, exec i s = .next t ∧ Completed s t false ∧
    (taken → t.reg .ip =
      wrap32 (target.toInt + if i.op ∈ s.cfg.biasedJumps then (s.cfg.baseMemorySize : Int) else 0)) ∧
    (¬ taken → t.reg .ip = nextAddress i s) ∧
    regsKept s t [.ip, .pc] ∧ memoryKept s t ∧ stackKept s t ∧ t.trace = s.trace

/-- The instruction completes as a push of `v` (44_stack_and_call.md R220). -/
def CompletesPush (i : Instr) (s : State) (v : Word) : Prop :=
  ∃ t, exec i s = .next t ∧ Completed s t false ∧ t.reg .ip = nextAddress i s ∧
    t.msp = s.msp - 4 ∧ t.reg .sp = wrap32 (s.msp - 4) ∧ t.fsz = wrap32 (s.fsz.toInt + 4) ∧
    holdsWord t (s.msp - 4).toNat v ∧ memoryKeptOutside s t (s.msp - 4).toNat 4 ∧
    t.stackTypes = markersPushed s 1 ∧ t.depth = s.depth ∧
    regsKept s t [.sp, .ip, .pc] ∧ t.trace = s.trace

/-- A load into a destination, in its order of faults: those of the access, then the destination's
(41_data_movement.md R165-R167; 60_exceptions.md R275). -/
def LoadsFrom (i : Instr) (s : State) (rd : Reg) (a : Int) : Prop :=
  match accessFault s .read .user a 4 with
  | some f => OnlyFaults i s f
  | none =>
    if isPrivileged rd then OnlyFaults i s (.invalidRegister rd)
    else CompletesInto i s rd (wordAt s a.toNat)

/-- A store of one word at an address, or its fault (41_data_movement.md R163, R164). -/
def StoresTo (i : Instr) (s : State) (a : Int) (v : Word) : Prop :=
  match accessFault s .write .user a 4 with
  | some f => OnlyFaults i s f
  | none => CompletesStoring i s a v

/-- A push of `v`, in its order of faults: the stack's bound, then those of the access
(44_stack_and_call.md R226, R227; 60_exceptions.md R275). -/
def PushesWord (i : Instr) (s : State) (v : Word) : Prop :=
  if s.msp - 4 < s.cfg.stackStart then OnlyFaults i s (.stackOverflow s.msp)
  else
    match accessFault s .write .system (s.msp - 4) 4 with
    | some f => OnlyFaults i s f
    | none => CompletesPush i s v

/-- What a pop does, whatever its destination then does: `msp`, SP, the counter and the markers move, the
bytes stay (44_stack_and_call.md R221; 20_memory.md R76). -/
def PopDone (i : Instr) (s t : State) : Prop :=
  t.reg .ip = nextAddress i s ∧ t.msp = s.msp + 4 ∧ t.reg .sp = wrap32 (s.msp + 4) ∧
    t.fsz = wrap32 (s.fsz.toInt - 4) ∧ t.stackTypes = markersPopped s 1 ∧ t.depth = s.depth ∧
    memoryKept s t ∧ t.trace = s.trace

/-- The saved registers and their offsets from the new FP (44_stack_and_call.md R222). -/
def frameRegs : List (Reg × Nat) :=
  [(.r8, 8), (.r7, 12), (.r6, 16), (.r5, 20), (.r4, 24), (.r3, 28), (.r2, 32), (.r1, 36)]

/-- Quotient and remainder: `n = d*q + r`, `|r| < |d|`, and `r` is 0 or has the sign of `n`
(42_arithmetic.md R188). -/
def Divides (n d q r : Int) : Prop :=
  n = d * q + r ∧ r.natAbs < d.natAbs ∧ (r ≠ 0 → (r < 0 ↔ n < 0))

/-- The exact result of an arithmetic instruction, by its own rule (42_arithmetic.md R182-R192); no other
instruction has one, and neither has a division by zero. The second register named is on the left. -/
def ArithResult (i : Instr) (s : State) (w : Int) : Prop :=
  let v := fun r : Reg => (operandOf i s r).toInt
  match i with
  | .addLitReg lit rs => w = v rs + lit.toInt
  | .addRegReg ra rb => w = v rb + v ra
  | .subLitReg lit rs => w = v rs - lit.toInt
  | .subRegReg ra rb => w = v rb - v ra
  | .mulLitReg lit rs => w = v rs * lit.toInt
  | .mulRegReg ra rb => w = v rb * v ra
  | .divLitReg lit rs => ∃ r, Divides (v rs) lit.toInt w r
  | .divRegReg ra rb => ∃ r, Divides (v rb) (v ra) w r
  | .modLitReg lit rs => ∃ q, Divides (v rs) lit.toInt q w
  | .modRegReg ra rb => ∃ q, Divides (v rb) (v ra) q w
  | .movLitReg _ _ | .movRegReg _ _ | .movLitMem _ _ | .movRegMem _ _ | .movMemReg _ _
  | .movRegPtrReg _ _ | .movLitExpMemReg _ _ => False
  | .jmpNotEq _ _ | .jneReg _ _ | .jeqLit _ _ | .jeqReg _ _ | .jltLit _ _ | .jltReg _ _
  | .jgtLit _ _ | .jgtReg _ _ | .jleLit _ _ | .jleReg _ _ | .jgeLit _ _ | .jgeReg _ _ => False
  | .pushLit _ | .pushReg _ | .popReg _ | .swap | .callLit _ | .ret => False
  | .hlt | .outRegLit _ _ | .intLit _ => False

/-- The flag bits S, Z and O are three different bits of FL (00_scope.md R7). -/
def flagsApart (s : State) : Prop :=
  s.cfg.flLayout.s ≠ s.cfg.flLayout.z ∧ s.cfg.flLayout.s ≠ s.cfg.flLayout.o ∧
    s.cfg.flLayout.z ≠ s.cfg.flLayout.o

/-- A device call is one event on the trace and changes no state but IP and PC; without a handler it is
the fault (45_system.md R251-R253). -/
def CallsDevice (i : Instr) (s : State) (kind : DeviceKind) (key v : Word) : Prop :=
  if (kind, key) ∈ s.cfg.deviceHandlers then
    ∃ t, exec i s = .next t ∧ Completed s t false ∧ t.reg .ip = nextAddress i s ∧
      t.trace = s.trace ++ [⟨kind, key, v⟩] ∧ regsKept s t [.ip, .pc] ∧ memoryKept s t ∧
      stackKept s t
  else OnlyFaults i s (.noDeviceHandler kind key)

/-! ### Which instructions have an effect -/

/-- The jumps (43_jumps.md R201). -/
def jumpOps : List Op :=
  [.jmpNotEq, .jneReg, .jeqLit, .jeqReg, .jltLit, .jltReg, .jgtLit, .jgtReg, .jleLit, .jleReg,
   .jgeLit, .jgeReg]

/-- The arithmetic instructions (42_arithmetic.md R180). -/
def arithmeticOps : List Op :=
  [.addLitReg, .addRegReg, .subLitReg, .subRegReg, .mulLitReg, .mulRegReg, .divLitReg, .divRegReg,
   .modLitReg, .modRegReg]

/-- The register an instruction names as its destination operand (10_state.md R26). -/
def destinationOf : Instr → Option Reg
  | .movLitReg _ r | .movRegReg _ r | .movMemReg _ r | .movRegPtrReg _ r
  | .movLitExpMemReg _ r | .popReg r => some r
  | .movLitMem _ _ | .movRegMem _ _ => none
  | .addLitReg _ _ | .addRegReg _ _ | .subLitReg _ _ | .subRegReg _ _ | .mulLitReg _ _
  | .mulRegReg _ _ | .divLitReg _ _ | .divRegReg _ _ | .modLitReg _ _ | .modRegReg _ _ => none
  | .jmpNotEq _ _ | .jneReg _ _ | .jeqLit _ _ | .jeqReg _ _ | .jltLit _ _ | .jltReg _ _
  | .jgtLit _ _ | .jgtReg _ _ | .jleLit _ _ | .jleReg _ _ | .jgeLit _ _ | .jgeReg _ _ => none
  | .pushLit _ | .pushReg _ | .swap | .callLit _ | .ret => none
  | .hlt | .outRegLit _ _ | .intLit _ => none

/-- How an instruction is written: the assembly form that selects it, its format, and its bytes under
the reference maps (30_encoding.md R110, R111, R119). -/
def Written (i : Instr) (m : Mnemonic) (operands : List AsmOperand) (opcode : Word) (f : Format) :
    Prop :=
  assemble m operands = some i ∧ i.op.format = f ∧
    encode i = bytesLe32 opcode ++ encodeArgs Config.reference i.op.format.kinds i.vals

/-! ### Numerals and register names by their grammar (30_encoding.md R117; 41_data_movement.md R168) -/

/-- A character is the digit of a value in a base: `0` to `9`, then `a` to `f` in either case. -/
def DigitIs (base c d : Nat) : Prop :=
  d < base ∧
    ((d < 10 ∧ c = 0x30 + d) ∨ (10 ≤ d ∧ d < 16 ∧ (c = 0x61 + (d - 10) ∨ c = 0x41 + (d - 10))))

/-- One or more digits of a base, with their value. -/
inductive DigitsText (base : Nat) : List Nat → Nat → Prop where
  | one {c d : Nat} (h : DigitIs base c d) : DigitsText base [c] d
  | more {cs : List Nat} {c n d : Nat} (hs : DigitsText base cs n) (h : DigitIs base c d) :
      DigitsText base (cs ++ [c]) (base * n + d)

/-- `body`: `0b` binary, `0x` hexadecimal, `0` and more digits octal, a bare `0`, or decimal digits that
do not begin with `0`. -/
inductive BodyText : List Nat → Nat → Prop where
  | binary {cs : List Nat} {n : Nat} (h : DigitsText 2 cs n) : BodyText (0x30 :: 0x62 :: cs) n
  | hexadecimal {cs : List Nat} {n : Nat} (h : DigitsText 16 cs n) : BodyText (0x30 :: 0x78 :: cs) n
  | octal {cs : List Nat} {n : Nat} (h : DigitsText 8 cs n) : BodyText (0x30 :: cs) n
  | zero : BodyText [0x30] 0
  | decimal {c : Nat} {cs : List Nat} {n : Nat} (hc : c ≠ 0x30) (h : DigitsText 10 (c :: cs) n) :
      BodyText (c :: cs) n

/-- `numeral`: a body, or `-` and a body, with a value in the range of an int. -/
inductive NumeralText : List Nat → Int → Prop where
  | plain {cs : List Nat} {n : Nat} (h : BodyText cs n) (hn : n ≤ 2147483647) : NumeralText cs n
  | negative {cs : List Nat} {n : Nat} (h : BodyText cs n) (hn : n ≤ 2147483648) :
      NumeralText (0x2D :: cs) (-n)

/-- A character is another one, which is a digit or a capital, in either case. -/
def SameInEitherCase (c capital : Nat) : Prop :=
  c = capital ∨ (0x41 ≤ capital ∧ capital ≤ 0x5A ∧ c = capital + 0x20)

/-- The name of a register (10_state.md R20). -/
def registerText : Reg → List Nat
  | .r1 => codePoints ['R', '1']
  | .r2 => codePoints ['R', '2']
  | .r3 => codePoints ['R', '3']
  | .r4 => codePoints ['R', '4']
  | .r5 => codePoints ['R', '5']
  | .r6 => codePoints ['R', '6']
  | .r7 => codePoints ['R', '7']
  | .r8 => codePoints ['R', '8']
  | .ac => codePoints ['A', 'C']
  | .ip => codePoints ['I', 'P']
  | .sp => codePoints ['S', 'P']
  | .fp => codePoints ['F', 'P']
  | .fl => codePoints ['F', 'L']
  | .pc => codePoints ['P', 'C']
  | .test => codePoints ['T', 'E', 'S', 'T']

/-! ### Expressions by their grammar (41_data_movement.md R168, R169) -/

/-- White space: spaces and tabs. -/
def isBlankText (bs : List Byte) : Prop := ∀ b ∈ bs, b = 0x20 ∨ b = 0x09

mutual

/-- `expr ::= ws term ws { "+" ws term ws }`, with the value of the text. -/
inductive ExprText (x : Reg → Word) : List Byte → Int → Prop where
  | first {a t b : List Byte} {v : Int} (ha : isBlankText a) (ht : TermText x t v)
      (hb : isBlankText b) : ExprText x (a ++ t ++ b) v
  | more {e a t b : List Byte} {v w : Int} (he : ExprText x e v) (ha : isBlankText a)
      (ht : TermText x t w) (hb : isBlankText b) : ExprText x (e ++ [0x2B] ++ a ++ t ++ b) (v + w)

/-- `term ::= numeral | regname | "(" expr ")"`, with the value of the text. -/
inductive TermText (x : Reg → Word) : List Byte → Int → Prop where
  | register {t : List Byte} {r : Reg} (h : registerNamed (t.map BitVec.toNat) = some r) :
      TermText x t (x r).toInt
  | numeral {t : List Byte} {v : Int} (h : Machine.numeral (t.map BitVec.toNat) = some v) :
      TermText x t v
  | paren {e : List Byte} {v : Int} (h : ExprText x e v) : TermText x ([0x28] ++ e ++ [0x29]) v

end

/-! ### Isolation (60_exceptions.md R280) -/

/-- An address that no bytecode can read: no region with PublicRead holds it, and it is not in the
stack. -/
def Hidden (s : State) (a : Nat) : Prop :=
  (∀ r, s.resolve a = some r → r.flags.publicRead = false) ∧
    ¬ (s.cfg.stackStart ≤ a ∧ a < s.cfg.stackEnd)

/-- Two states that differ at most in bytes that no bytecode can read. -/
def SameVisible (s s' : State) : Prop :=
  { s' with mem := s.mem } = s ∧ ∀ a, ¬ Hidden s a → s'.mem.read a = s.mem.read a

end Sys2Proof.Machine
end

