-- ==== Sys2Proof/Certificates/Slice0/Obligations.lean ====
section
/-! DEFINITION. The statements about the model. OBLIGATIONS.json lists them. Where a statement stores to
memory it assumes the memory's canonical form, which `MemoryStaysCanonical` says every step keeps. -/

open Sys2Proof Sys2Proof.Machine

/-! ### Encoding (30_encoding.md) -/

/-- Decoding an encoded well-formed instruction gives it back, under any legal opcode and register map,
whatever bytes follow (30_encoding.md R100, R101, R110). -/
def Obligations.EncodedInstructionsDecodeBack : Prop :=
  ∀ (c : Config) (i : Instr) (rest : List Byte), c.encodingLegal = true → i.wellFormed = true →
    decodeWith c (encodeWith c i ++ rest) = .ok (i, rest)

/-- Bytes that decode are the encoding of what they decode to: every instruction has one encoding
(30_encoding.md R100, R101, R113). -/
def Obligations.DecodedBytesAreTheEncoding : Prop :=
  ∀ (c : Config) (bs rest : List Byte) (i : Instr), c.encodingLegal = true →
    decodeWith c bs = .ok (i, rest) → i.wellFormed = true ∧ bs = encodeWith c i ++ rest

/-- The length of an instruction: 4 and the sizes of its arguments, as many bytes as its encoding has
(30_encoding.md R109). -/
def Obligations.InstructionLengthIsItsEncodedSize : Prop :=
  (∀ v, ArgKind.literalInteger.size v = 4) ∧ (∀ v, ArgKind.literalPointer.size v = 4) ∧
    (∀ v, ArgKind.register.size v = 1) ∧ (∀ v, ArgKind.registerPointer.size v = 1) ∧
    (∀ v, ArgKind.instructionSizeHint.size v = 1) ∧
    (∀ e : List Byte, ArgKind.expression.size e = 4 + e.length) ∧
    ∀ (c : Config) (i : Instr),
      i.length = 4 + argsSize i.op.format.kinds i.vals ∧ (encodeWith c i).length = i.length ∧
        (i.length ∈ [4, 5, 6, 8, 9, 12] ∨
          ∃ e r, i = .movLitExpMemReg e r ∧ i.length = 9 + e.length)

/-- Words written out from the spec's examples decode to the instructions they stand for: one or more
of each family (41_data_movement.md R161, R167; 42_arithmetic.md R182; 43_jumps.md R202, R203;
44_stack_and_call.md R224, R226; 45_system.md R250-R252). -/
def Obligations.ExampleWordsDecode : Prop :=
  decode [0x10, 0, 0, 0, 2, 0, 0, 0, 0] = .ok (.movLitReg 2 .r1, []) ∧
    decode [0x16, 0, 0, 0, 6, 0, 0, 0, 0x52, 0x31, 0x20, 0x2B, 0x20, 0x34, 1] =
      .ok (.movLitExpMemReg [0x52, 0x31, 0x20, 0x2B, 0x20, 0x34] .r2, []) ∧
    decode [0x20, 0, 0, 0, 1, 0, 0, 0, 0] = .ok (.addLitReg 1 .r1, []) ∧
    decode [0x30, 0, 0, 0, 1, 0, 0, 0, 0, 0x10, 0, 0] = .ok (.jmpNotEq 1 0x1000, []) ∧
    decode [0x31, 0, 0, 0, 0, 0, 0x10, 0, 0] = .ok (.jneReg .r1 0x1000, []) ∧
    decode [0x40, 0, 0, 0, 5, 0, 0, 0] = .ok (.pushLit 5, []) ∧
    decode [0x44, 0, 0, 0, 0x40, 0x10, 0, 0] = .ok (.callLit 0x1040, []) ∧
    decode [0x50, 0, 0, 0] = .ok (.hlt, []) ∧
    decode [0x51, 0, 0, 0, 0, 0, 0, 0, 0] = .ok (.outRegLit .r1 0, []) ∧
    decode [0x52, 0, 0, 0, 1, 0, 0, 0] = .ok (.intLit 1, [])

/-- Illegal encodings, under any configuration: an opcode value outside the map, a byte that names no
register, wherever a format has a register, and a negative string length (30_encoding.md R104, R107,
R110, R112); and under the reference map 0 is such an opcode value. -/
def Obligations.IllegalEncodingsAreRefused : Prop :=
  Config.reference.opOf 0 = none ∧
    ∀ (c : Config) (rest : List Byte),
      (∀ v : Word, c.opOf v = none →
        decodeWith c (bytesLe32 v ++ rest) = .error (.illegal (.unknownOpcode v))) ∧
      (∀ (o : Op) (b : Byte), c.opOf (c.opcode o) = some o → c.regOf b = none →
        let refused := fun before : List Byte =>
          decodeWith c (bytesLe32 (c.opcode o) ++ before ++ [b] ++ rest) =
            .error (.illegal (.badRegister b))
        (o.format ∈ [.r, .rr, .rp, .qr, .rl] → refused []) ∧
        (o.format ∈ [.rr, .qr] → ∀ (b' : Byte) (r : Reg), c.regOf b' = some r → refused [b']) ∧
        (o.format ∈ [.lr, .pr] → ∀ v : Word, refused (bytesLe32 v)) ∧
        (o.format = .er → ∀ e : List Byte, textLengthOk e = true →
          refused (bytesLe32 (BitVec.ofNat 32 e.length) ++ e))) ∧
      (∀ (o : Op) (n : Word), c.opOf (c.opcode o) = some o → o.format = .er → n.toInt < 0 →
        decodeWith c (bytesLe32 (c.opcode o) ++ bytesLe32 n ++ rest) =
          .error (.illegal (.badLength n.toInt)))

/-! ### The cycle (40_cycle.md) -/

/-- A step runs the decoded instruction: a running machine that no breakpoint stops, and whose checked
fetch at IP decodes to `i`, steps as `exec i`; `exec` does all that is left of the cycle, the advance of
IP included (40_cycle.md R150). The host's `Step()` returns the record of `i`, or the fault that the
cycle took (40_cycle.md R149; 60_exceptions.md R286). -/
def Obligations.StepRunsTheDecodedInstruction : Prop :=
  ∀ (s : State) (i : Instr), s.halted = false → s.haltRequested = false →
    decodeFrom s.cfg decodeFault (s.fetchReader (opcodeAddress s)) = .ok i →
    step s = exec i s ∧
      ∀ t, s.fault = none → exec i s = .next t →
        (∀ r, t.fault = some r → s.stepReturn = .fault r) ∧
        (t.fault = none →
          s.stepReturn = .decoded ⟨opcodeAddress s, s.cfg.opcode i.op, i, i.length⟩)

/-- The bytes of a well-formed instruction, whole inside a region with PublicRead and Execute, run as
that instruction when IP is at them (30_encoding.md R103; 40_cycle.md R141-R143). -/
def Obligations.EncodedBytesInMemoryRun : Prop :=
  ∀ (s : State) (i : Instr) (r : Region), s.cfg.encodingLegal = true → i.wellFormed = true →
    s.halted = false → s.haltRequested = false → RegionsInv s → r ∈ s.regions →
    r.flags.publicRead = true → r.flags.execute = true → (r.start : Int) ≤ opcodeAddress s →
    opcodeAddress s + i.length ≤ r.stop →
    s.mem.readBytes (opcodeAddress s).toNat i.length = encodeWith s.cfg i → step s = exec i s

/-- A halted machine does nothing, however often it is stepped, and every step keeps `halted`: only
Reset clears it. `Step()` returns neither an instruction nor a fault (40_cycle.md R148). -/
def Obligations.HaltedMachineStaysAsItIs : Prop :=
  ∀ s : State, s.halted = true →
    (∀ n, Sys2Proof.core.run n s = .next s) ∧ s.stepReturn = .nothing ∧
      s.hostReset.halted = false

/-- The host's halt request: at the top of the cycle, from a breakpoint at IP, and nothing but `halted`
changes (40_cycle.md R147). That the callbacks' answers are data of the configuration, and that a
breakpoint of every type triggers at its address, is the model's choice (DESIGN CHOICE, log entry 9). -/
def Obligations.HostHaltRequestOnlyHalts : Prop :=
  ∀ s : State, s.halted = false →
    ((∃ b ∈ s.cfg.breakpoints, b.address = (s.reg .ip).toInt ∧ b.halts = true) →
      step s = .next { s with halted := true }) ∧
    ((∀ b ∈ s.cfg.breakpoints, b.address = (s.reg .ip).toInt → b.halts = false) →
      s.haltRequested = false)

/-- A fetch that fails, or an opcode value outside the map, records its fault with the address of the
opcode, and IP stays there (40_cycle.md R141, R142; 60_exceptions.md R271, R273). -/
def Obligations.FailedFetchRecordsItsFault : Prop :=
  ∀ s : State, s.halted = false → s.haltRequested = false →
    match fetchFault s (opcodeAddress s) 4 with
    | some f => step s = .next { s with halted := true, fault := some ⟨f, opcodeAddress s⟩ }
    | none =>
      s.cfg.opOf (wordAt s (opcodeAddress s).toNat) = none →
        step s =
          .next
            { s with
              halted := true
              fault :=
                some ⟨.invalidOpcode (wordAt s (opcodeAddress s).toNat), opcodeAddress s⟩ }

/-- An argument that cannot be read leaves IP just past the opcode and records the opcode's address
(40_cycle.md R143; 60_exceptions.md R273). -/
def Obligations.FailedArgumentLeavesIpPastTheOpcode : Prop :=
  ∀ (s : State) (o : Op) (f : Fault), s.halted = false → s.haltRequested = false →
    s.fetchOp = .ok o → s.fetchRest o = .error f →
      step s =
        .next
          { s with
            regs := s.regs.set .ip (wrap32 (opcodeAddress s + 4))
            halted := true
            fault := some ⟨f, opcodeAddress s⟩ }

/-- Each argument kind, read from memory at an address: the checks of the access first, then the check
of the value (30_encoding.md R102, R104, R107). -/
def Obligations.ArgumentReadsCheckAccessThenValue : Prop :=
  ∀ (s : State) (a : Int) (off : Nat),
    let rd := s.fetchReader a
    let at' := a + off
    (match fetchFault s at' 4 with
      | some f => decodeArg s.cfg decodeFault rd .literalInteger off = .error f ∧
          decodeArg s.cfg decodeFault rd .literalPointer off = .error f
      | none =>
        decodeArg s.cfg decodeFault rd .literalInteger off = .ok (wordAt s at'.toNat) ∧
          decodeArg s.cfg decodeFault rd .literalPointer off = .ok (wordAt s at'.toNat)) ∧
    (match fetchFault s at' 1 with
      | some f => decodeArg s.cfg decodeFault rd .register off = .error f ∧
          decodeArg s.cfg decodeFault rd .registerPointer off = .error f
      | none =>
        match s.cfg.regOf (s.mem.read at'.toNat) with
        | some r => decodeArg s.cfg decodeFault rd .register off = .ok r ∧
            decodeArg s.cfg decodeFault rd .registerPointer off = .ok r
        | none =>
          decodeArg s.cfg decodeFault rd .register off =
              .error (.invalidOperand .registerId (s.mem.read at'.toNat).toNat) ∧
            decodeArg s.cfg decodeFault rd .registerPointer off =
              .error (.invalidOperand .registerId (s.mem.read at'.toNat).toNat)) ∧
    (match fetchFault s at' 4 with
      | some f => decodeArg s.cfg decodeFault rd .expression off = .error f
      | none =>
        let n := (wordAt s at'.toNat).toInt
        if n < 0 then
          decodeArg s.cfg decodeFault rd .expression off =
            .error (.invalidOperand .stringLength n)
        else if n = 0 then decodeArg s.cfg decodeFault rd .expression off = .ok []
        else
          match fetchFault s (at' + 4) n.toNat with
          | some f => decodeArg s.cfg decodeFault rd .expression off = .error f
          | none =>
            decodeArg s.cfg decodeFault rd .expression off =
              .ok (s.mem.readBytes (at' + 4).toNat n.toNat))

/-- Every instruction on every state ends its cycle: it completes, with PC counting it and the halt
check made, or its fault is taken (40_cycle.md R144, R146; 60_exceptions.md R271). HLT alone asks for
the halt, and never faults (45_system.md R250). -/
def Obligations.EveryInstructionCompletesOrFaults : Prop :=
  ∀ (i : Instr) (s : State), ∃ t, exec i s = .next t ∧
    (Completed s t (decide (i = .hlt)) ∨ (i ≠ .hlt ∧ ∃ f, FaultTaken s t f))

/-- PC counts completed instructions: a step answers a next state in which PC has grown by one, with no
new fault, or in which PC is as before and the machine is halted (10_state.md R29). -/
def Obligations.PcCountsCompletedInstructions : Prop :=
  State.reset.reg .pc = 0 ∧
    ∀ s : State, ∃ t, step s = .next t ∧
      ((s.halted = false ∧ s.haltRequested = false ∧ t.fault = s.fault ∧
          t.reg .pc = wrap32 ((s.reg .pc).toInt + 1)) ∨
        (t.reg .pc = s.reg .pc ∧ t.halted = true ∧
          (s.halted = true ∨ s.haltRequested = true ∨ ∃ f, t.fault = some ⟨f, opcodeAddress s⟩)))

/-! ### Data movement (41_data_movement.md) -/

/-- MOV_LIT_REG and MOV_REG_REG: the destination gets the value under User, so a privileged destination
is the fault and nothing is written (41_data_movement.md R161, R162). -/
def Obligations.MovWritesItsDestinationRegister : Prop :=
  ∀ (lit : Word) (rs rd : Reg) (s : State),
    Written (.movLitReg lit rd) .mov [.lit lit, .reg rd] 0x10 .lr ∧
    Written (.movRegReg rs rd) .mov [.reg rs, .reg rd] 0x11 .rr ∧
    (isPrivileged rd = false →
      CompletesInto (.movLitReg lit rd) s rd lit ∧
        CompletesInto (.movRegReg rs rd) s rd (operandOf (.movRegReg rs rd) s rs)) ∧
    (isPrivileged rd = true →
      OnlyFaults (.movLitReg lit rd) s (.invalidRegister rd) ∧
        OnlyFaults (.movRegReg rs rd) s (.invalidRegister rd))

/-- MOV_LIT_MEM and MOV_REG_MEM: the word goes to the four bytes from the literal address under User, or
the access faults and no byte is written (41_data_movement.md R163, R164). -/
def Obligations.MovStoresAWordAtItsAddress : Prop :=
  ∀ (lit a : Word) (rs : Reg) (s : State), s.mem.wf →
    Written (.movLitMem lit a) .mov [.lit lit, .ptr a] 0x12 .lp ∧
    Written (.movRegMem rs a) .mov [.reg rs, .ptr a] 0x13 .rp ∧
    StoresTo (.movLitMem lit a) s a.toInt lit ∧
    StoresTo (.movRegMem rs a) s a.toInt (operandOf (.movRegMem rs a) s rs)

/-- MOV_MEM_REG and MOV_REG_PTR_REG: the destination gets the word at the literal address, or at the
register's value; the memory faults come before the destination's (41_data_movement.md R165, R166). -/
def Obligations.MovLoadsTheWordAtItsAddress : Prop :=
  ∀ (a : Word) (rp rd : Reg) (s : State),
    Written (.movMemReg a rd) .mov [.ptr a, .reg rd] 0x14 .pr ∧
    Written (.movRegPtrReg rp rd) .mov [.regPtr rp, .reg rd] 0x15 .qr ∧
    LoadsFrom (.movMemReg a rd) s rd a.toInt ∧
    LoadsFrom (.movRegPtrReg rp rd) s rd (operandOf (.movRegPtrReg rp rd) s rp).toInt

/-- MOV_LIT_EXP_MEM_REG: the destination gets the word at the expression's value, not wrapped, on the
registers as they stand at execution; a text outside the grammar is `InvalidExpression` and writes
nothing (41_data_movement.md R167, R170). -/
def Obligations.MovLoadsAtItsExpression : Prop :=
  ∀ (e : List Byte) (rd : Reg) (s : State),
    Written (.movLitExpMemReg e rd) .mov [.expr e, .reg rd] 0x16 .er ∧
    (∀ a : Int, ExprText (operandOf (.movLitExpMemReg e rd) s) e a →
      LoadsFrom (.movLitExpMemReg e rd) s rd a) ∧
    ((¬ ∃ a : Int, ExprText (operandOf (.movLitExpMemReg e rd) s) e a) →
      OnlyFaults (.movLitExpMemReg e rd) s (.invalidExpression e))

/-- The evaluator follows the grammar: it answers a value exactly for the texts of the grammar, and the
value is the mathematical sum of the terms (41_data_movement.md R168, R169). The one-pass method of
evaluation is the model's (DEDUCED, log entry 10); the grammar here is stated without it. -/
def Obligations.EvaluatorFollowsTheGrammar : Prop :=
  ∀ (x : Reg → Word) (e : List Byte) (v : Int), evalExpression x e = some v ↔ ExprText x e v

/-- Numerals and register names, the terms of expressions and the literals of assembly, follow their
grammar: a numeral has a value exactly where the grammar gives it that value, `$N` and `&$N` take
numerals, `&$N` none with a leading `-`, and a word names a register exactly where it is its name in
either case (30_encoding.md R117; 41_data_movement.md R168). -/
def Obligations.NumeralsAndNamesFollowTheGrammar : Prop :=
  (∀ (cs : List Nat) (v : Int), numeral cs = some v ↔ NumeralText cs v) ∧
    (∀ (cs : List Nat) (w : Word), literalInteger cs = some w ↔
      ∃ t v, cs = 0x24 :: t ∧ NumeralText t v ∧ w = wrap32 v) ∧
    (∀ (cs : List Nat) (w : Word), literalPointer cs = some w ↔
      ∃ (t : List Nat) (n : Nat),
        cs = 0x26 :: 0x24 :: t ∧ BodyText t n ∧ n ≤ 2147483647 ∧ w = wrap32 n) ∧
    (∀ (cs : List Nat) (r : Reg), registerNamed cs = some r ↔
      List.Forall₂ SameInEitherCase cs (registerText r))

/-! ### Arithmetic (42_arithmetic.md) -/

/-- ADD, SUB and MUL by a literal: the register is on the left, and the exact result goes to AC, S, Z
and O (42_arithmetic.md R182, R184, R186). -/
def Obligations.LiteralArithmeticWritesAcAndFlags : Prop :=
  ∀ (lit : Word) (rs : Reg) (s : State), flagsApart s →
    Written (.addLitReg lit rs) .add [.lit lit, .reg rs] 0x20 .lr ∧
    Written (.subLitReg lit rs) .sub [.lit lit, .reg rs] 0x22 .lr ∧
    Written (.mulLitReg lit rs) .mul [.lit lit, .reg rs] 0x24 .lr ∧
    CompletesArith (.addLitReg lit rs) s
      ((operandOf (.addLitReg lit rs) s rs).toInt + lit.toInt) ∧
    CompletesArith (.subLitReg lit rs) s
      ((operandOf (.subLitReg lit rs) s rs).toInt - lit.toInt) ∧
    CompletesArith (.mulLitReg lit rs) s
      ((operandOf (.mulLitReg lit rs) s rs).toInt * lit.toInt)

/-- ADD, SUB and MUL of two registers: the second register named is on the left
(42_arithmetic.md R183, R185, R187). -/
def Obligations.RegisterArithmeticWritesAcAndFlags : Prop :=
  ∀ (ra rb : Reg) (s : State), flagsApart s →
    Written (.addRegReg ra rb) .add [.reg ra, .reg rb] 0x21 .rr ∧
    Written (.subRegReg ra rb) .sub [.reg ra, .reg rb] 0x23 .rr ∧
    Written (.mulRegReg ra rb) .mul [.reg ra, .reg rb] 0x25 .rr ∧
    CompletesArith (.addRegReg ra rb) s
      ((operandOf (.addRegReg ra rb) s rb).toInt + (operandOf (.addRegReg ra rb) s ra).toInt) ∧
    CompletesArith (.subRegReg ra rb) s
      ((operandOf (.subRegReg ra rb) s rb).toInt - (operandOf (.subRegReg ra rb) s ra).toInt) ∧
    CompletesArith (.mulRegReg ra rb) s
      ((operandOf (.mulRegReg ra rb) s rb).toInt * (operandOf (.mulRegReg ra rb) s ra).toInt)

/-- DIV: the quotient truncated toward zero, the register or second register by the literal or first
register; a zero divisor is the fault and nothing is written (42_arithmetic.md R188-R190). That the
quotient is truncated is presumed: R188 takes it from general knowledge (PRESUMED, log entry 14). -/
def Obligations.DivisionTruncatesTowardZero : Prop :=
  ∀ (lit : Word) (ra rs : Reg) (s : State), flagsApart s →
    Written (.divLitReg lit rs) .div [.lit lit, .reg rs] 0x26 .lr ∧
    Written (.divRegReg ra rs) .div [.reg ra, .reg rs] 0x27 .rr ∧
    (lit = 0 → OnlyFaults (.divLitReg lit rs) s .divideByZero) ∧
    (operandOf (.divRegReg ra rs) s ra = 0 → OnlyFaults (.divRegReg ra rs) s .divideByZero) ∧
    (lit ≠ 0 → ∃ q r : Int,
      Divides (operandOf (.divLitReg lit rs) s rs).toInt lit.toInt q r ∧
        CompletesArith (.divLitReg lit rs) s q) ∧
    (operandOf (.divRegReg ra rs) s ra ≠ 0 → ∃ q r : Int,
      Divides (operandOf (.divRegReg ra rs) s rs).toInt (operandOf (.divRegReg ra rs) s ra).toInt
          q r ∧
        CompletesArith (.divRegReg ra rs) s q)

/-- MOD: the remainder, with the sign of the dividend, and O never set; a zero divisor is the fault
(42_arithmetic.md R188, R191, R192). The sign of the remainder is presumed: R188 takes it from general
knowledge (PRESUMED, log entry 14). -/
def Obligations.RemainderHasTheDividendsSign : Prop :=
  ∀ (lit : Word) (ra rs : Reg) (s : State), flagsApart s →
    Written (.modLitReg lit rs) .mod [.lit lit, .reg rs] 0x28 .lr ∧
    Written (.modRegReg ra rs) .mod [.reg ra, .reg rs] 0x29 .rr ∧
    (lit = 0 → OnlyFaults (.modLitReg lit rs) s .divideByZero) ∧
    (operandOf (.modRegReg ra rs) s ra = 0 → OnlyFaults (.modRegReg ra rs) s .divideByZero) ∧
    (lit ≠ 0 → ∃ q r : Int,
      Divides (operandOf (.modLitReg lit rs) s rs).toInt lit.toInt q r ∧
        ¬ (r < -2147483648 ∨ r > 2147483647) ∧ CompletesArith (.modLitReg lit rs) s r) ∧
    (operandOf (.modRegReg ra rs) s ra ≠ 0 → ∃ q r : Int,
      Divides (operandOf (.modRegReg ra rs) s rs).toInt (operandOf (.modRegReg ra rs) s ra).toInt
          q r ∧
        ¬ (r < -2147483648 ∨ r > 2147483647) ∧ CompletesArith (.modRegReg ra rs) s r)

/-! ### Jumps (43_jumps.md) -/

/-- The six jumps with a literal operand: taken exactly when the literal, on the left, stands in the
relation to AC, both signed (43_jumps.md R202, R204, R206, R208, R210, R212). -/
def Obligations.LiteralJumpsCompareWithAc : Prop :=
  ∀ (lit target : Word) (s : State),
    let v := lit.toInt
    let a := (s.reg .ac).toInt
    Written (.jmpNotEq lit target) .jne [.lit lit, .ptr target] 0x30 .lp ∧
    Written (.jeqLit lit target) .jeq [.lit lit, .ptr target] 0x32 .lp ∧
    Written (.jltLit lit target) .jlt [.lit lit, .ptr target] 0x34 .lp ∧
    Written (.jgtLit lit target) .jgt [.lit lit, .ptr target] 0x36 .lp ∧
    Written (.jleLit lit target) .jle [.lit lit, .ptr target] 0x38 .lp ∧
    Written (.jgeLit lit target) .jge [.lit lit, .ptr target] 0x3A .lp ∧
    CompletesJump (.jmpNotEq lit target) s (v ≠ a) target ∧
    CompletesJump (.jeqLit lit target) s (v = a) target ∧
    CompletesJump (.jltLit lit target) s (v < a) target ∧
    CompletesJump (.jgtLit lit target) s (a < v) target ∧
    CompletesJump (.jleLit lit target) s (v ≤ a) target ∧
    CompletesJump (.jgeLit lit target) s (a ≤ v) target

/-- The six jumps with a register operand; IP as the operand is the next address
(43_jumps.md R203, R205, R207, R209, R211, R213). -/
def Obligations.RegisterJumpsCompareWithAc : Prop :=
  ∀ (rs : Reg) (target : Word) (s : State),
    let v := fun i : Instr => (operandOf i s rs).toInt
    let a := (s.reg .ac).toInt
    Written (.jneReg rs target) .jne [.reg rs, .ptr target] 0x31 .rp ∧
    Written (.jeqReg rs target) .jeq [.reg rs, .ptr target] 0x33 .rp ∧
    Written (.jltReg rs target) .jlt [.reg rs, .ptr target] 0x35 .rp ∧
    Written (.jgtReg rs target) .jgt [.reg rs, .ptr target] 0x37 .rp ∧
    Written (.jleReg rs target) .jle [.reg rs, .ptr target] 0x39 .rp ∧
    Written (.jgeReg rs target) .jge [.reg rs, .ptr target] 0x3B .rp ∧
    CompletesJump (.jneReg rs target) s (v (.jneReg rs target) ≠ a) target ∧
    CompletesJump (.jeqReg rs target) s (v (.jeqReg rs target) = a) target ∧
    CompletesJump (.jltReg rs target) s (v (.jltReg rs target) < a) target ∧
    CompletesJump (.jgtReg rs target) s (a < v (.jgtReg rs target)) target ∧
    CompletesJump (.jleReg rs target) s (v (.jleReg rs target) ≤ a) target ∧
    CompletesJump (.jgeReg rs target) s (a ≤ v (.jgeReg rs target)) target

/-! ### The stack (44_stack_and_call.md) -/

/-- PUSH_LIT and PUSH_REG: one slot below `msp`, counted, and mirrored in SP; no room is
`StackOverflow`, and a stack region without Write faults (44_stack_and_call.md R226, R227). -/
def Obligations.PushStoresOneSlot : Prop :=
  ∀ (lit : Word) (rs : Reg) (s : State), s.mem.wf →
    Written (.pushLit lit) .push [.lit lit] 0x40 .l ∧
    Written (.pushReg rs) .push [.reg rs] 0x41 .r ∧
    PushesWord (.pushLit lit) s lit ∧
    PushesWord (.pushReg rs) s (operandOf (.pushReg rs) s rs)

/-- POP_REG: the top slot goes to the destination; an empty stack, a missing marker and an unreadable
slot fault with nothing done, a privileged destination faults with the pop done
(44_stack_and_call.md R228). -/
def Obligations.PopLoadsTheTopSlot : Prop :=
  ∀ (rd : Reg) (s : State),
    Written (.popReg rd) .pop [.reg rd] 0x42 .r ∧
    if (s.cfg.stackEnd : Int) < s.msp + 4 then OnlyFaults (.popReg rd) s (.stackUnderflow s.msp)
    else if s.cfg.debugStackTypes = true ∧ s.stackTypes = [] then
      OnlyFaults (.popReg rd) s (.stackIntegrity s.msp)
    else
      match accessFault s .read .system s.msp 4 with
      | some f => OnlyFaults (.popReg rd) s f
      | none =>
        if isPrivileged rd then
          ∃ t, exec (.popReg rd) s = .next t ∧ FaultTaken s t (.invalidRegister rd) ∧
            PopDone (.popReg rd) s t ∧ regsKept s t [.sp, .ip]
        else
          ∃ t, exec (.popReg rd) s = .next t ∧ Completed s t false ∧ PopDone (.popReg rd) s t ∧
            t.reg rd = wordAt s s.msp.toNat ∧ regsKept s t [rd, .sp, .ip, .pc]

/-- SWAP: the two top slots change places, and `msp`, the counter and the markers are as before; with
fewer than two slots, or no marker, nothing is changed, and with one marker the first pop stays done
(44_stack_and_call.md R229). -/
def Obligations.SwapExchangesTheTopSlots : Prop :=
  ∀ s : State, s.mem.wf →
    Written .swap .swap [] 0x43 .n ∧
    ((s.cfg.stackEnd : Int) < s.msp + 8 → OnlyFaults .swap s (.stackUnderflow s.msp)) ∧
    (s.msp + 8 ≤ s.cfg.stackEnd → s.cfg.debugStackTypes = true → s.stackTypes = [] →
      OnlyFaults .swap s (.stackIntegrity s.msp)) ∧
    (s.msp + 8 ≤ s.cfg.stackEnd → s.cfg.debugStackTypes = true → s.stackTypes.length = 1 →
      accessFault s .read .system s.msp 4 = none →
      ∃ t, exec .swap s = .next t ∧ FaultTaken s t (.stackIntegrity (s.msp + 4)) ∧
        t.reg .ip = nextAddress .swap s ∧ t.msp = s.msp + 4 ∧ t.stackTypes = [] ∧
        t.fsz = s.fsz ∧ t.depth = s.depth ∧ regsKept s t [.ip] ∧ memoryKept s t ∧
        t.trace = s.trace) ∧
    (s.msp + 8 ≤ s.cfg.stackEnd → (s.cfg.stackStart : Int) ≤ s.msp →
      (s.cfg.debugStackTypes = true → 2 ≤ s.stackTypes.length) →
      accessFault s .read .system s.msp 4 = none →
      accessFault s .read .system (s.msp + 4) 4 = none →
      accessFault s .write .system s.msp 4 = none →
      accessFault s .write .system (s.msp + 4) 4 = none →
      ∃ t, exec .swap s = .next t ∧ Completed s t false ∧ t.reg .ip = nextAddress .swap s ∧
        holdsWord t s.msp.toNat (wordAt s (s.msp.toNat + 4)) ∧
        holdsWord t (s.msp.toNat + 4) (wordAt s s.msp.toNat) ∧
        memoryKeptOutside s t s.msp.toNat 8 ∧ t.reg .sp = wrap32 s.msp ∧ stackKept s t ∧
        regsKept s t [.sp, .ip, .pc] ∧ t.trace = s.trace)

/-- CALL_LIT builds the frame: the header's ten words at their offsets from the new FP, the counters, FP
and SP, and IP at the target with no bias (44_stack_and_call.md R222, R224). -/
def Obligations.CallBuildsTheFrame : Prop :=
  ∀ (target : Word) (s : State), s.mem.wf →
    Written (.callLit target) .call [.ptr target] 0x44 .p ∧
    ((s.cfg.stackStart : Int) ≤ s.msp - 40 →
      (∀ k : Nat, k < 10 → accessFault s .write .system (s.msp - 40 + 4 * k) 4 = none) →
      ∃ t, exec (.callLit target) s = .next t ∧ Completed s t false ∧ t.reg .ip = target ∧
        t.msp = s.msp - 40 ∧ t.reg .sp = wrap32 (s.msp - 40) ∧ t.reg .fp = wrap32 (s.msp - 40) ∧
        t.fsz = 0 ∧ t.depth = s.depth + 1 ∧ t.stackTypes = markersPushed s 10 ∧
        holdsWord t (s.msp - 40).toNat (wrap32 (s.fsz.toInt + 40)) ∧
        holdsWord t ((s.msp - 40).toNat + 4) (nextAddress (.callLit target) s) ∧
        (∀ p ∈ frameRegs, holdsWord t ((s.msp - 40).toNat + p.2) (s.reg p.1)) ∧
        memoryKeptOutside s t (s.msp - 40).toNat 40 ∧ regsKept s t [.sp, .fp, .ip, .pc] ∧
        t.trace = s.trace)

/-- CALL_LIT without room for its ten slots: `StackOverflow` at the first push that does not fit; the
`j` pushes before it stay done and counted, and SP, FP and the depth are as before
(44_stack_and_call.md R224; 60_exceptions.md R272). -/
def Obligations.CallOverflowKeepsItsPushes : Prop :=
  ∀ (target : Word) (s : State) (j : Nat), s.mem.wf → j < 10 →
    (s.cfg.stackStart : Int) ≤ s.msp - 4 * j → s.msp - 4 * (j + 1) < s.cfg.stackStart →
    (∀ k : Nat, k < j → accessFault s .write .system (s.msp - 4 * (k + 1)) 4 = none) →
    ∃ t, exec (.callLit target) s = .next t ∧ FaultTaken s t (.stackOverflow (s.msp - 4 * j)) ∧
      t.reg .ip = nextAddress (.callLit target) s ∧ t.msp = s.msp - 4 * j ∧
      t.fsz = wrap32 (s.fsz.toInt + 4 * j) ∧ t.depth = s.depth ∧
      t.stackTypes = markersPushed s j ∧
      (∀ (k : Nat) (v : Word), k < j →
        (savedRegs.map s.reg ++ [nextAddress (.callLit target) s])[k]? = some v →
          holdsWord t (s.msp - 4 * (k + 1)).toNat v) ∧
      memoryKeptOutside s t (s.msp - 4 * j).toNat (4 * j) ∧ regsKept s t [.ip] ∧
      t.trace = s.trace

/-- RET takes the frame at FP down: IP, R8 to R1 and the argument count come from it, the arguments are
discarded, and FP, the counter and the depth are the caller's (44_stack_and_call.md R225). -/
def Obligations.RetRestoresTheCaller : Prop :=
  Written .ret .ret [] 0x45 .n ∧
  ∀ (s : State) (n : Nat),
    let f := (s.reg .fp).toInt
    let a := f.toNat
    s.depth ≠ 0 → (s.cfg.stackStart : Int) ≤ f → (s.cfg.stackEnd - f) % 4 = 0 →
    f + 44 + 4 * n ≤ s.cfg.stackEnd →
    (∀ k : Nat, k < 11 + n → accessFault s .read .system (f + 4 * k) 4 = none) →
    (s.cfg.debugStackTypes = true →
      0 ≤ dropCount s.msp f ∧ dropCount s.msp f + 11 + n ≤ s.stackTypes.length) →
    (wordAt s (a + 40)).toInt = n →
    ∃ t, exec .ret s = .next t ∧ Completed s t false ∧
      t.reg .ip = wordAt s (a + 4) ∧ (∀ p ∈ frameRegs, t.reg p.1 = wordAt s (a + p.2)) ∧
      t.msp = f + 44 + 4 * n ∧ t.reg .sp = wrap32 (f + 44 + 4 * n) ∧
      t.reg .fp = wrap32 (f + (wordAt s a).toInt) ∧
      t.fsz = wrap32 ((wordAt s a).toInt - 44 - 4 * n) ∧ t.depth = s.depth - 1 ∧
      t.stackTypes = markersPopped s ((dropCount s.msp f).toNat + 11 + n) ∧
      t.reg .ac = s.reg .ac ∧ t.reg .fl = s.reg .fl ∧ t.reg .test = s.reg .test ∧
      memoryKept s t ∧ t.trace = s.trace

/-- RET faults before it pops: with no call to match, or with an FP that is no slot boundary of the
stack, or (debug) with markers that do not match; only IP has moved (44_stack_and_call.md R225;
20_memory.md R81). -/
def Obligations.RetFaultsBeforePopping : Prop :=
  ∀ s : State,
    let f := (s.reg .fp).toInt
    if s.depth = 0 then OnlyFaults .ret s .unmatchedReturn
    else if f < s.cfg.stackStart then OnlyFaults .ret s (.stackOverflow f)
    else if (s.cfg.stackEnd : Int) < f ∨ (s.cfg.stackEnd - f) % 4 ≠ 0 then
      OnlyFaults .ret s (.stackUnderflow f)
    else
      s.cfg.debugStackTypes = true →
      (dropCount s.msp f < 0 ∨ (s.stackTypes.length : Int) < dropCount s.msp f) →
        OnlyFaults .ret s (.stackIntegrity s.msp)

/-- RET that runs out of slots, or pops a negative count, faults part-way: what it has popped stays
restored, and FP, SP, the counter and the depth are as before (44_stack_and_call.md R225;
60_exceptions.md R272, R273). `m` is the number of pops that succeed. -/
def Obligations.RetFaultsPartWay : Prop :=
  ∀ (s : State) (m : Nat),
    let f := (s.reg .fp).toInt
    let a := f.toNat
    let n := (wordAt s (a + 40)).toInt
    let faultsAfter := fun (fault : Fault) =>
      ∃ t, exec .ret s = .next t ∧ FaultTaken s t fault ∧ t.msp = f + 4 * m ∧
        t.reg .ip = (if 2 ≤ m then wordAt s (a + 4) else nextAddress .ret s) ∧
        (∀ p ∈ frameRegs, t.reg p.1 = if p.2 + 4 ≤ 4 * m then wordAt s (a + p.2) else s.reg p.1) ∧
        regsKept s t (.ip :: savedRegs) ∧ t.fsz = s.fsz ∧ t.depth = s.depth ∧
        t.stackTypes = markersPopped s ((dropCount s.msp f).toNat + m) ∧
        memoryKept s t ∧ t.trace = s.trace
    s.depth ≠ 0 → (s.cfg.stackStart : Int) ≤ f → (s.cfg.stackEnd - f) % 4 = 0 →
    (∀ k : Nat, k < m → accessFault s .read .system (f + 4 * k) 4 = none) →
    (s.cfg.debugStackTypes = true →
      0 ≤ dropCount s.msp f ∧ dropCount s.msp f + m ≤ s.stackTypes.length) →
    (f + 4 * m = s.cfg.stackEnd → (m < 11 ∨ (m : Int) < 11 + n) → (11 ≤ m → 0 ≤ n) →
      faultsAfter (.stackUnderflow s.cfg.stackEnd)) ∧
    (m = 11 → f + 44 ≤ s.cfg.stackEnd → n < 0 → faultsAfter (.invalidArgumentCount n))

/-- A return undoes its call: from the state before the call (the argument count on top of the stack) to
the state after the RET of a callee that kept FP, the depth and the stack from the frame up,
R1 to R8 and IP are those of the call, the count and the arguments are gone, and the counter is the
caller's. FP is `msp + fsz` of the caller: the caller's FP where that is what it was, and `StackEnd` in
the outermost frame (44_stack_and_call.md R230). -/
def Obligations.ReturnUndoesItsCall : Prop :=
  ∀ (target : Word) (s t u : State) (n : Nat), s.mem.wf → StackInv s →
    s.cfg.stackEnd ≤ 2147483647 → (s.cfg.stackStart : Int) ≤ s.msp - 40 →
    (∀ k : Nat, k < 10 → accessFault s .write .system (s.msp - 40 + 4 * k) 4 = none) →
    (∀ k : Nat, k < 11 + n → accessFault s .read .system (s.msp - 40 + 4 * k) 4 = none) →
    (wordAt s s.msp.toNat).toInt = n → s.msp + 4 + 4 * n ≤ s.cfg.stackEnd →
    exec (.callLit target) s = .next t →
    hostKept t u → u.depth = t.depth → u.reg .fp = t.reg .fp →
    (∀ b : Nat, t.msp ≤ b → b < s.cfg.stackEnd → u.mem.read b = t.mem.read b) →
    (s.cfg.debugStackTypes = true →
      0 ≤ dropCount u.msp t.msp ∧ dropCount u.msp t.msp + 11 + n ≤ u.stackTypes.length) →
    ∃ v, exec .ret u = .next v ∧ Completed u v false ∧
      v.reg .ip = nextAddress (.callLit target) s ∧ (∀ r ∈ savedRegs, v.reg r = s.reg r) ∧
      v.msp = s.msp + 4 + 4 * n ∧ v.reg .sp = wrap32 (s.msp + 4 + 4 * n) ∧
      v.fsz = wrap32 (s.fsz.toInt - 4 - 4 * n) ∧ v.reg .fp = wrap32 (s.msp + s.fsz.toInt) ∧
      (s.reg .fp = wrap32 (s.msp + s.fsz.toInt) → v.reg .fp = s.reg .fp) ∧
      (s.msp + s.fsz.toInt = s.cfg.stackEnd → (v.reg .fp).toInt = s.cfg.stackEnd) ∧
      v.depth = s.depth ∧ v.reg .ac = u.reg .ac ∧ memoryKept u v

/-! ### System (45_system.md) -/

/-- HLT completes, counts in PC, and halts the machine with IP after it and no fault
(45_system.md R250). -/
def Obligations.HltHaltsTheMachine : Prop :=
  Written .hlt .hlt [] 0x50 .n ∧
  ∀ s : State, ∃ t, exec .hlt s = .next t ∧ Completed s t true ∧ t.halted = true ∧
    t.fault = s.fault ∧ t.reg .ip = nextAddress .hlt s ∧ regsKept s t [.ip, .pc] ∧
    memoryKept s t ∧ stackKept s t ∧ t.trace = s.trace

/-- OUT_REG_LIT sends the register's value to the device as one event; without a handler for the address
it is `NoDeviceHandler` (45_system.md R251). That the call cannot fail and writes no state is the spec's
assumption about handlers (45_system.md R253; DESIGN CHOICE, log entry 13). -/
def Obligations.OutSendsTheRegisterToTheDevice : Prop :=
  ∀ (rs : Reg) (addr : Word) (s : State),
    Written (.outRegLit rs addr) .out [.reg rs, .lit addr] 0x51 .rl ∧
    CallsDevice (.outRegLit rs addr) s .out addr (operandOf (.outRegLit rs addr) s rs)

/-- INT_LIT calls the host's handler with AC as one event and goes on; without a handler for the id it is
`NoDeviceHandler` (45_system.md R252). That AC is what the handler is given is the spec's own choice
(R252), and that the call cannot fail and writes no state is its assumption about handlers
(45_system.md R253; DESIGN CHOICE, log entry 13). -/
def Obligations.IntCallsTheHandlerWithAc : Prop :=
  ∀ (id : Word) (s : State),
    Written (.intLit id) .int [.lit id] 0x52 .l ∧
    CallsDevice (.intLit id) s .int id (s.reg .ac)

/-! ### The whole machine -/

/-- Every step keeps the memory's canonical form inside the buffer, and the region invariants
(20_memory.md R62, R63, R67). -/
def Obligations.MemoryStaysCanonical : Prop :=
  ∀ s t : State, MemoryInv s → RegionsInv s → step s = .next t → MemoryInv t ∧ RegionsInv t

/-- Every step, a faulting one too, keeps the stack pointer on a slot boundary of the stack and one
marker per live slot (20_memory.md R74, R80, R81). -/
def Obligations.StackPointerStaysOnASlot : Prop :=
  ∀ s t : State, StackInv s → ShadowInv s → step s = .next t → StackInv t ∧ ShadowInv t

/-- Every step that does not fault and moves `msp` leaves SP equal to it, and an SP that has followed
`msp` goes on following it (10_state.md R32). -/
def Obligations.SpFollowsTheStackPointer : Prop :=
  (State.reset.reg .sp = 0 ∧ State.reset.msp = State.reset.cfg.stackEnd) ∧
  ∀ s t : State, step s = .next t → t.fault = none →
    ((t.msp = s.msp ∧ t.reg .sp = s.reg .sp) ∨ t.reg .sp = wrap32 t.msp) ∧
    (MirrorInv s → MirrorInv t)

/-- A recorded fault goes with a halted machine, from any state in which it does
(60_exceptions.md R271, R278). -/
def Obligations.RecordedFaultMeansHalted : Prop :=
  ∀ s t : State, FaultHalts s → step s = .next t →
    FaultHalts t ∧ (Faulted s → t = s) ∧ (s.halted = true → t.halted = true)

/-- No step writes what only the host writes: the configuration, the region table, the buffer's length
and the next sequence id (10_state.md R37; 20_memory.md R78). -/
def Obligations.OnlyTheHostChangesTheRegions : Prop :=
  ∀ s t : State, step s = .next t → hostKept s t

/-- FL changes only in a step that runs an arithmetic instruction: AC then holds the truncated value of
the instruction's exact result on its operands, S, Z and O follow the flag laws of that result, C and the
reserved bits never change, and S and Z are never both set (10_state.md R30, R31; 42_arithmetic.md R180,
R181). The exact result of each instruction is that of its own rule (42_arithmetic.md R182-R187,
R189-R192). That a quotient is truncated toward zero, and with it the sign of a remainder, is presumed:
R188 takes it from general knowledge (PRESUMED, log entry 14). -/
def Obligations.FlagsFollowTheLastResult : Prop :=
  ∀ s t : State, flagsApart s → step s = .next t → t.reg .fl ≠ s.reg .fl →
    (∃ d w, s.decodedInstr = some d ∧ d.instr.op ∈ arithmeticOps ∧ ArithResult d.instr s w ∧
      t.reg .ac = wrap32 w ∧
      (t.reg .fl).getLsbD s.cfg.flLayout.s = decide ((wrap32 w).toInt < 0) ∧
      (t.reg .fl).getLsbD s.cfg.flLayout.z = decide ((wrap32 w).toInt = 0) ∧
      (t.reg .fl).getLsbD s.cfg.flLayout.o = decide (w < -2147483648 ∨ w > 2147483647)) ∧
    (∀ j : Fin 32, j ≠ s.cfg.flLayout.s → j ≠ s.cfg.flLayout.z → j ≠ s.cfg.flLayout.o →
      (t.reg .fl).getLsbD j = (s.reg .fl).getLsbD j) ∧
    ¬ ((t.reg .fl).getLsbD s.cfg.flLayout.s = true ∧ (t.reg .fl).getLsbD s.cfg.flLayout.z = true)

/-- What each instruction may change, whether it completes or faults: IP beyond the advance only by
jumps, calls and returns; SP and the stack state only by the stack instructions; FP and the depth only
by CALL_LIT and RET; FL only by arithmetic; AC, TEST and R1 to R8 only as destinations, results or by
RET; memory only by stores, pushes, SWAP and CALL_LIT; the trace only by device calls
(10_state.md R21, R26; 60_exceptions.md R280). -/
def Obligations.InstructionsChangeOnlyTheirOwnState : Prop :=
  ∀ (i : Instr) (s t : State), exec i s = .next t →
    (i.op ∉ jumpOps → i.op ≠ .callLit → i.op ≠ .ret → t.reg .ip = nextAddress i s) ∧
    (i.op ∉ [.pushLit, .pushReg, .popReg, .swap, .callLit, .ret] →
      t.reg .sp = s.reg .sp ∧ t.msp = s.msp ∧ t.stackTypes = s.stackTypes ∧ t.fsz = s.fsz) ∧
    (i.op ≠ .callLit → i.op ≠ .ret → t.reg .fp = s.reg .fp ∧ t.depth = s.depth) ∧
    (i.op ∉ arithmeticOps → t.reg .fl = s.reg .fl) ∧
    (i.op ∉ arithmeticOps → destinationOf i ≠ some .ac → t.reg .ac = s.reg .ac) ∧
    (destinationOf i ≠ some .test → t.reg .test = s.reg .test) ∧
    (∀ r ∈ savedRegs, i.op ≠ .ret → destinationOf i ≠ some r → t.reg r = s.reg r) ∧
    (i.op ∉ [.movLitMem, .movRegMem, .pushLit, .pushReg, .swap, .callLit] → t.mem = s.mem) ∧
    (i.op ∉ [.outRegLit, .intLit] → t.trace = s.trace)

/-- A byte of memory changes only where the flags admit it: in a region with PublicWrite, or in a region
with Write inside the stack (20_memory.md R65, R67; 60_exceptions.md R280). -/
def Obligations.StoresChangeOnlyPermittedBytes : Prop :=
  ∀ (s t : State) (b : Nat), s.mem.wf → StackInv s → step s = .next t →
    t.mem.read b ≠ s.mem.read b →
    ∃ r ∈ s.regions, r.start ≤ b ∧ b < r.stop ∧
      (r.flags.publicWrite = true ∨
        (r.flags.write = true ∧ s.cfg.stackStart ≤ b ∧ b < s.cfg.stackEnd))

/-- A byte that no bytecode can read does not leak: two states that differ only in such bytes step to two
states that differ only in such bytes (20_memory.md R65, R66; 60_exceptions.md R280). -/
def Obligations.HiddenBytesDoNotLeak : Prop :=
  ∀ s s' t : State, MemoryInv s → MemoryInv s' → RegionsInv s → StackInv s → SameVisible s s' →
    step s = .next t → ∃ t', step s' = .next t' ∧ SameVisible t t'

/-- The four kinds of end: a running machine with no fault that halts in a step did so by the host's
request (and nothing else changed), by a fault (recorded), by HLT, or with IP at or past the end of the
fetch region (40_cycle.md R151). That an HLT which ends its region is an end by HLT and never one at the
region's end is the model's choice, since R151 gives no precedence (DESIGN CHOICE, log entry 22). -/
def Obligations.RunsEndInOneOfFourWays : Prop :=
  ∀ s t : State, s.halted = false → s.fault = none → step s = .next t → t.halted = true →
    (endKind s t = some .byHost ∧ s.haltRequested = true ∧ t = { s with halted := true }) ∨
    (endKind s t = some .faulted ∧ s.haltRequested = false ∧
      ∃ f, t.fault = some ⟨f, opcodeAddress s⟩) ∨
    (t.fault = none ∧ s.haltRequested = false ∧ ∃ d, s.decodedInstr = some d ∧
      ((endKind s t = some .byHlt ∧ d.instr = .hlt) ∨
        (endKind s t = some .atRegionEnd ∧ d.instr ≠ .hlt ∧
          ∃ fr, s.resolve (opcodeAddress s) = some fr ∧ (fr.stop : Int) ≤ (t.reg .ip).toInt)))

/-! ### Operations (10_state.md, 20_memory.md) -/

/-- The register write gate: a User write of a privileged register raises and the register keeps its old
value; every other write stores the value and nothing else (10_state.md R23, R24). -/
def Obligations.WriteGateGuardsPrivilegedRegisters : Prop :=
  (∀ r : Reg, isPrivileged r = true ↔ r ∈ [Reg.ip, .sp, .fp, .fl, .pc]) ∧
  ∀ (ctx : Context) (r : Reg) (v : Word) (s : State),
    if r ∈ [Reg.ip, .sp, .fp, .fl, .pc] ∧ ctx = .user then
      writeReg ctx r v s = .error (.invalidRegister r) s
    else
      ∃ t, writeReg ctx r v s = .ok () t ∧ t.reg r = v ∧ (∀ r', r' ≠ r → t.reg r' = s.reg r') ∧
        { t with regs := s.regs } = s

/-- The permission predicate: System needs the plain flag, User the Public one, a fetch Execute in either
context (20_memory.md R65). -/
def Obligations.PermissionsFollowTheContext : Prop :=
  ∀ f : AccessFlags,
    permitted .read .system f = f.read ∧ permitted .read .user f = f.publicRead ∧
      permitted .write .system f = f.write ∧ permitted .write .user f = f.publicWrite ∧
      ∀ ctx, permitted .execute ctx f = f.execute

/-- A word stored at an address is read back whole and byte by byte, the least significant byte at the
lowest address, aligned or not, and no other byte changes (20_memory.md R69-R71). -/
def Obligations.StoredWordReadsBackByteByByte : Prop :=
  ∀ (s : State) (a : Int) (v : Word) (ctx ctx' : Context), s.mem.wf →
    accessFault s .write ctx a 4 = none → accessFault s .read ctx' a 4 = none →
    ∃ t, storeInt a v ctx s = .ok () t ∧ holdsWord t a.toNat v ∧ loadInt a ctx' t = .ok v t ∧
      memoryKeptOutside s t a.toNat 4 ∧ { t with mem := s.mem } = s

/-! ### The host's operations (20_memory.md R78; 70_reset_and_hazards.md) -/

/-- Reset: every register, the run state, the record, the counters and the stack as listed; memory, the
region table and the configuration as they were (70_reset_and_hazards.md R300). That the next sequence id
stays too is the model's reading: R300 does not list it (DEDUCED, log entry 18). -/
def Obligations.ResetClearsTheCpuAndTheStack : Prop :=
  ∀ s : State,
    (∀ r, s.hostReset.reg r = 0) ∧ s.hostReset.halted = false ∧ s.hostReset.fault = none ∧
      s.hostReset.fsz = 0 ∧ s.hostReset.depth = 0 ∧ s.hostReset.msp = s.cfg.stackEnd ∧
      s.hostReset.stackTypes = [] ∧ s.hostReset.mem = s.mem ∧ hostKept s s.hostReset

/-- ClearStack: the stack pointer at `StackEnd` and no markers; no byte, no region and no register
changes (20_memory.md R77). -/
def Obligations.ClearStackOnlyMovesThePointer : Prop :=
  ∀ s : State,
    s.clearStack.msp = s.cfg.stackEnd ∧ s.clearStack.stackTypes = [] ∧
      { s.clearStack with msp := s.msp, stackTypes := s.stackTypes } = s

/-- A new machine: every byte 0, the listed regions in their order and the stack region after them with
sequence ids from 0, and the registers and hidden state of a reset machine
(70_reset_and_hazards.md R301, R302). -/
def Obligations.ConstructionLaysOutTheMachine : Prop :=
  (∀ c : Config, c.legal = true →
    ∃ s, construct c = some s ∧ s.cfg = c ∧ s.memLen = c.baseMemorySize ∧
      (∀ a : Nat, s.mem.read a = 0) ∧
      s.regions.length = c.regions.length + 1 ∧
      (∀ (k : Nat) (r : RegionSpec), c.regions[k]? = some r →
        s.regions[k]? = some ⟨k, r.start, r.stop, r.flags, r.label⟩) ∧
      s.regions[c.regions.length]? =
        some
          ⟨c.regions.length, c.baseMemorySize - c.stackSize, c.baseMemorySize, c.stackFlags,
            "stack"⟩ ∧
      (∀ r, s.reg r = 0) ∧ s.halted = false ∧ s.fault = none ∧ s.fsz = 0 ∧ s.depth = 0 ∧
      s.msp = c.baseMemorySize ∧ s.stackTypes = [] ∧ MemoryInv s ∧ RegionsInv s ∧ StackInv s) ∧
  construct Config.reference = some State.reset ∧
  State.reset.regions.map (fun r => (r.seqId, r.start, r.stop, r.flags)) =
    [(0, 0x0000, 0x0800, ⟨true, true, true, true, false⟩),
     (1, 0x0800, 0x0C00, ⟨true, true, false, false, false⟩),
     (2, 0x0C00, 0x1000, ⟨true, true, true, false, false⟩)]

/-- The reset state satisfies every invariant of this file. -/
def Obligations.ResetMeetsTheInvariants : Prop :=
  MemoryInv State.reset ∧ RegionsInv State.reset ∧ StackInv State.reset ∧ ShadowInv State.reset ∧
    MirrorInv State.reset ∧ FaultHalts State.reset ∧ flagsApart State.reset

/-- A host that skips the boot: the first fetch, from address 0, is a violation for want of Execute
(70_reset_and_hazards.md R304). -/
def Obligations.FirstFetchWithoutBootIsAViolation : Prop :=
  step State.reset =
    .next
      { State.reset with
        halted := true
        fault := some ⟨.memoryAccessViolation 0 .execute .user, 0⟩ }

/-- AddMemoryRegion: refused when the range is empty, negative, past the buffer or overlapping; else the
region is added with the next sequence id, and nothing else changes (20_memory.md R78). -/
def Obligations.AddMemoryRegionAppendsOrRefuses : Prop :=
  ∀ (s : State) (start stop : Int) (flags : AccessFlags) (label : String),
    let refused :=
      stop ≤ start ∨ start < 0 ∨ (s.memLen : Int) < stop ∨
        ∃ r ∈ s.regions, start < r.stop ∧ (r.start : Int) < stop
    (refused → s.addMemoryRegion start stop flags label = none) ∧
    (¬ refused →
      s.addMemoryRegion start stop flags label =
        some
          ({ s with
             regions := s.regions ++ [⟨s.nextSeqId, start.toNat, stop.toNat, flags, label⟩]
             nextSeqId := s.nextSeqId + 1 },
            ⟨s.nextSeqId, start.toNat, stop.toNat, flags, label⟩))

/-- AddExecutableMemory: an image is appended to the buffer as one region with `EXEC_FLAGS`, its bytes in
order; an empty image, or one past the largest address, is refused. The region's label is the model's
(log entry 6), so nothing is said of it (20_memory.md R78). -/
def Obligations.AddExecutableMemoryAppendsTheImage : Prop :=
  ∀ (s : State) (bs : List Byte), MemoryInv s →
    ((bs = [] ∨ 2147483647 < s.memLen + bs.length) → s.addExecutableMemory bs = none) ∧
    (bs ≠ [] → s.memLen + bs.length ≤ 2147483647 →
      ∃ t r, s.addExecutableMemory bs = some (t, r) ∧ r.seqId = s.nextSeqId ∧
        r.start = s.memLen ∧ r.stop = s.memLen + bs.length ∧ r.flags = s.cfg.execFlags ∧
        t.regions = s.regions ++ [r] ∧ t.memLen = s.memLen + bs.length ∧
        t.nextSeqId = s.nextSeqId + 1 ∧ t.mem.readBytes s.memLen bs.length = bs ∧
        (∀ b : Nat, b < s.memLen → t.mem.read b = s.mem.read b) ∧ MemoryInv t ∧
        { t with mem := s.mem, memLen := s.memLen, regions := s.regions,
                 nextSeqId := s.nextSeqId } = s)

/-- The host's operations keep the memory and region invariants, and Reset gives the stack invariants
from any state. RemoveExecutableRegions drops the regions with Execute, truncates the buffer to base
memory and changes nothing else (20_memory.md R78). It keeps the stack region even if its flags contain
Execute: the model's reading of two rules (R73, R78; DESIGN CHOICE, log entry 5). -/
def Obligations.HostOperationsKeepTheInvariants : Prop :=
  ∀ s : State, MemoryInv s → RegionsInv s →
    (∀ start stop flags label t r, s.addMemoryRegion start stop flags label = some (t, r) →
      MemoryInv t ∧ RegionsInv t) ∧
    (∀ bs t r, s.addExecutableMemory bs = some (t, r) → MemoryInv t ∧ RegionsInv t) ∧
    ((∀ r ∈ s.regions, r.flags.execute = false → r.stop ≤ s.cfg.baseMemorySize) →
      MemoryInv s.removeExecutableRegions ∧ RegionsInv s.removeExecutableRegions) ∧
    (s.removeExecutableRegions.regions.Sublist s.regions ∧
      (∀ r, r ∈ s.removeExecutableRegions.regions ↔
        r ∈ s.regions ∧
          (r.flags.execute = false ∨ (r.start = s.cfg.stackStart ∧ r.stop = s.cfg.stackEnd))) ∧
      s.removeExecutableRegions.memLen = s.cfg.baseMemorySize ∧
      (∀ b : Nat, b < s.cfg.baseMemorySize →
        s.removeExecutableRegions.mem.read b = s.mem.read b) ∧
      (∀ b : Nat, s.cfg.baseMemorySize ≤ b → s.removeExecutableRegions.mem.read b = 0) ∧
      { s.removeExecutableRegions with mem := s.mem, memLen := s.memLen, regions := s.regions } = s) ∧
    MemoryInv s.hostReset ∧ RegionsInv s.hostReset ∧ StackInv s.hostReset ∧
    ShadowInv s.hostReset ∧ MirrorInv s.hostReset ∧ FaultHalts s.hostReset

/-- Boot: construct, load an image, enter it. The listed regions stay, since no program was loaded before,
and the image's region comes after them. The next step runs the instruction at the image's start, at the
end of base memory, if executable memory is public to read and no breakpoint is set
(70_reset_and_hazards.md R303). -/
def Obligations.BootRunsTheImageFromItsStart : Prop :=
  ∀ (c : Config) (s : State) (i : Instr) (rest : List Byte),
    construct c = some s → c.execFlags.publicRead = true → c.breakpoints = [] →
    i.wellFormed = true →
    c.baseMemorySize + (encodeWith c i ++ rest).length ≤ 2147483647 →
    ∃ m, s.boot (encodeWith c i ++ rest) = some m ∧
      (∃ r, m.regions = s.regions ++ [r] ∧ r.start = c.baseMemorySize ∧
        r.stop = c.baseMemorySize + (encodeWith c i ++ rest).length ∧ r.flags = c.execFlags) ∧
      (m.reg .ip).toInt = c.baseMemorySize ∧ step m = exec i m
end

