-- ==== Sys2Proof/Laws/Assembly.lean ====
section
/-! SUPPORT. What the assembly operations can answer (30_encoding.md R102, R114, R120,
R122), and what `Step()`
returns (60_exceptions.md R286). -/

namespace Sys2Proof.Machine

/-- A list is mapped whole exactly where every element of it is. -/
theorem mapAll_ok {α β : Type} {f : α → Except AsmError β} {as : List α} {bs : List β} :
    mapAll f as = .ok bs ↔ List.Forall₂ (fun a b => f a = .ok b) as bs := by
  induction as generalizing bs with
  | nil => cases bs <;> simp [mapAll]
  | cons a as ih =>
    simp only [mapAll]
    cases ha : f a with
    | error e => cases bs <;> simp [ha]
    | ok b =>
      cases has : mapAll f as with
      | error e =>
        have : ∀ bs, ¬ List.Forall₂ (fun a b => f a = .ok b) as bs := fun bs h => by
          simp [has] at ih
          exact ih h
        cases bs <;> simp [this]
      | ok bs' =>
        have h := fun bs => @ih bs
        simp only [has, Except.ok.injEq] at h
        cases bs <;> simp [ha, ← h]

/-- A reference fills a pointer only with a value that is not negative (30_encoding.md R102). -/
theorem bindings_ptr {v : Int} {a : Word} (h : .ptr a ∈ bindings v) : a.toInt = v ∧ 0 ≤ v := by
  have hv : 0 ≤ v ∧ v ≤ intMax ∧ a = wrap32 v := by
    simp only [bindings, List.mem_append] at h
    rcases h with h | h <;> split at h <;> simp_all
  obtain ⟨h0, h1, rfl⟩ := hv
  refine ⟨?_, h0⟩
  unfold intMax at h1
  rw [wrap32, BitVec.toInt_ofInt, Int.bmod_def]
  split <;> omega

/-- The quick parser's limit changes no bytecode (30_encoding.md R122). -/
theorem assembleProgram_of_assembleQuick {c : Config} {source : List (List (List Nat))}
    {p : Assembled} (h : assembleQuick c source = .ok p) : assembleProgram c source = .ok p := by
  unfold assembleQuick at h
  unfold assembleProgram
  split at h
  · cases h
  · split at h
    · cases h
    · exact h

/-- A new name was not defined before, and is added with its value (30_encoding.md R120). -/
theorem defineName_ok {names names' : AsmNames} {name : List Nat} {v : Int} :
    defineName names name v = .ok names' ↔
      nameValue names name = none ∧ names' = names ++ [(name, v)] := by
  unfold defineName
  cases nameValue names name <;> simp [eq_comm]

/-- Code begins right after the header and the meta section (30_encoding.md R114). -/
theorem metaSectionBytes_length (i : MetaSection) :
    containerHeaderSize + (metaSectionBytes i).length = metaSectionEnd := by
  have words : ∀ v : Vector Word 4, (v.toList.flatMap bytesLe32).length = 16 := fun v => by
    simp [List.length_flatMap, bytesLe32]
  simp [metaSectionBytes, words, containerHeaderSize, metaSectionEnd]

/-- `Step()` on a halted machine returns nothing (40_cycle.md R148). -/
theorem State.stepReturn_halted {s : State} (h : s.halted = true) : s.stepReturn = .nothing := by
  simp [State.stepReturn, step, h, State.decodedInstr]

/-- Nothing is dropped where no program was loaded (70_reset_and_hazards.md R303). -/
theorem State.unloadPrograms_of_not_loaded {s : State} (h : s.programLoaded = false) :
    s.unloadPrograms = s := by
  simp [State.unloadPrograms, h]

theorem State.unloadPrograms_of_loaded {s : State} (h : s.programLoaded = true) :
    s.unloadPrograms = s.removeExecutableRegions := by
  simp [State.unloadPrograms, h]

end Sys2Proof.Machine
end

