-- ==== Sys2Proof/Laws/Decode.lean ====
section
/-! SUPPORT. Bytes and words, and the lookups in a legal opcode map and register map. -/

namespace Sys2Proof

@[simp] theorem bytesLe32_length (v : Word) : (bytesLe32 v).length = 4 := rfl

/-- Reading back the four bytes of a word (20_memory.md R70). -/
@[simp] theorem le32_bytesLe32 (v : Word) : le32 (bytesLe32 v) = v := by
  apply BitVec.eq_of_toNat_eq
  simp only [le32, bytesLe32, leNat, BitVec.extractLsb'_toNat, BitVec.toNat_ofNat,
    Nat.shiftRight_eq_div_pow]
  have := v.isLt
  omega

/-- Byte `k` of a word's encoding is bits `8k+7:8k` (20_memory.md R70). -/
theorem bytesLe32_getElem (v : Word) (k : Nat) (h : k < (bytesLe32 v).length) :
    (bytesLe32 v)[k] = v.extractLsb' (8 * k) 8 := by
  match k, h with
  | 0, _ => rfl
  | 1, _ => rfl
  | 2, _ => rfl
  | 3, _ => rfl
  | k + 4, h => simp at h

/-- The unsigned value of four bytes fits a word. -/
theorem leNat_lt (bs : List Byte) : leNat bs < 256 ^ bs.length := by
  induction bs with
  | nil => simp [leNat]
  | cons b bs ih =>
    have := b.isLt
    simp only [leNat, List.length_cons, pow_succ]
    omega

/-- The four bytes of the word four bytes make. -/
theorem bytesLe32_le32 (b0 b1 b2 b3 : Byte) :
    bytesLe32 (le32 [b0, b1, b2, b3]) = [b0, b1, b2, b3] := by
  have h0 := b0.isLt; have h1 := b1.isLt; have h2 := b2.isLt; have h3 := b3.isLt
  simp only [bytesLe32, List.cons.injEq, and_true]
  refine ⟨?_, ?_, ?_, ?_⟩ <;> apply BitVec.eq_of_toNat_eq <;>
    simp only [le32, leNat, BitVec.extractLsb'_toNat, BitVec.toNat_ofNat,
      Nat.shiftRight_eq_div_pow] <;> omega

/-- In an association list whose second parts are distinct, looking an entry's second part up finds
the entry. -/
theorem find_snd_of_mem {α β : Type} [BEq β] [LawfulBEq β] {l : List (α × β)}
    (hn : (l.map Prod.snd).Nodup) {p : α × β} (hp : p ∈ l) :
    l.find? (fun q => q.2 == p.2) = some p := by
  induction l with
  | nil => cases hp
  | cons q l ih =>
    rw [List.map_cons, List.nodup_cons] at hn
    rcases List.mem_cons.1 hp with rfl | hp
    · simp
    · have hne : ¬ (q.2 == p.2) = true := by
        rw [beq_iff_eq]
        intro h
        exact hn.1 (h ▸ List.mem_map_of_mem hp)
      rw [List.find?_cons, ih hn.2 hp]
      simp [hne]

/-- The entry of a key that an association list has. -/
theorem find_fst_isSome {α β : Type} [BEq α] [LawfulBEq α] {l : List (α × β)} {a : α}
    (ha : a ∈ l.map Prod.fst) : ∃ p ∈ l, p.1 = a ∧ l.find? (fun q => q.1 == a) = some p := by
  obtain ⟨q, hq, rfl⟩ := List.mem_map.1 ha
  cases h : l.find? (fun p => p.1 == q.1) with
  | none =>
    have := List.find?_eq_none.1 h q hq
    simp at this
  | some p =>
    have := List.find?_some h
    exact ⟨p, List.mem_of_find?_eq_some h, by simpa using this, rfl⟩

theorem Op.mem_all (o : Op) : o ∈ Op.all := by cases o <;> decide

theorem Reg.mem_all (r : Reg) : r ∈ Reg.all := by cases r <;> decide

/-- In a legal opcode map the value of a name names it (00_scope.md R7: injective). -/
theorem Config.opOf_opcode {c : Config} (h : c.encodingLegal = true) (o : Op) :
    c.opOf (c.opcode o) = some o := by
  simp only [Config.encodingLegal, Bool.and_eq_true, decide_eq_true_eq] at h
  obtain ⟨p, hp, ho, hf⟩ := find_fst_isSome (h.1.1.1.1.1.1 o (Op.mem_all o))
  simp only [Config.opOf, Config.opcode, hf, find_snd_of_mem h.1.1.1.1.2 hp, Option.map_some, ho]

/-- In a legal register map the identifier of a register names it (00_scope.md R7: injective). -/
theorem Config.regOf_regId {c : Config} (h : c.encodingLegal = true) (r : Reg) :
    c.regOf (c.regId r) = some r := by
  simp only [Config.encodingLegal, Bool.and_eq_true, decide_eq_true_eq] at h
  obtain ⟨p, hp, ho, hf⟩ := find_fst_isSome (h.1.1.1.2 r (Reg.mem_all r))
  simp only [Config.regOf, Config.regId, hf, find_snd_of_mem h.1.2 hp, Option.map_some, ho]

/-- The reference configuration is legal (00_scope.md R7). -/
theorem reference_legal : Config.reference.legal = true := by decide

theorem reference_encodingLegal : Config.reference.encodingLegal = true := by decide

/-- The encoded size of an argument is its declared size (30_encoding.md R109). -/
theorem encodeArg_length (c : Config) (k : ArgKind) (v : k.Val) :
    (encodeArg c k v).length = k.size v := by
  cases k <;> simp [encodeArg, ArgKind.size]

end Sys2Proof
end

