-- ==== Sys2Proof/Laws/Memory.lean ====
section
/-! SUPPORT. The byte buffer: read after write, and every operation keeps the canonical form. -/

namespace Sys2Proof.Machine

/-! ### One byte -/

/-- Below the first listed address everything reads as unlisted. -/
theorem Memory.read_eq_unlisted {m : Memory} {a : Nat} (h : ∀ c ∈ m, c.1 ≠ a) :
    Memory.read m a = unlistedByte := by
  induction m with
  | nil => rfl
  | cons c m ih =>
    obtain ⟨k, b⟩ := c
    have hk : k ≠ a := h (k, b) (by simp)
    simp only [Memory.read, if_neg hk]
    exact ih fun c hc => h c (by simp [hc])

/-- The addresses a write leaves listed were listed before or are the one written. -/
theorem Memory.mem_write {m : Memory} {a : Nat} {b : Byte} {c : Host.Cell}
    (h : c ∈ Memory.write m a b) : c ∈ m ∨ (c = (a, b) ∧ b ≠ unlistedByte) := by
  induction m with
  | nil =>
    simp only [Memory.write] at h
    split at h
    · simp at h
    · exact .inr ⟨by simpa using h, ‹_›⟩
  | cons d m ih =>
    obtain ⟨k, e⟩ := d
    simp only [Memory.write] at h
    split at h
    · split at h
      · exact .inl h
      · rcases List.mem_cons.1 h with h | h
        · exact .inr ⟨h, ‹_›⟩
        · exact .inl h
    · split at h
      · split at h
        · exact .inl (List.mem_cons_of_mem _ h)
        · rcases List.mem_cons.1 h with h | h
          · exact .inr ⟨h, ‹_›⟩
          · exact .inl (List.mem_cons_of_mem _ h)
      · rcases List.mem_cons.1 h with h | h
        · exact .inl (by simp [h])
        · rcases ih h with h | h
          · exact .inl (List.mem_cons_of_mem _ h)
          · exact .inr h

/-- A write keeps the canonical form. -/
theorem Memory.write_wf {m : Memory} (h : m.wf) (a : Nat) (b : Byte) :
    (Memory.write m a b).wf := by
  refine ⟨?_, fun c hc => ?_⟩
  · obtain ⟨hs, -⟩ := h
    induction m with
    | nil =>
      simp only [Memory.write]
      split <;> simp
    | cons d m ih =>
      obtain ⟨k, e⟩ := d
      rw [List.pairwise_cons] at hs
      simp only [Memory.write]
      split
      · split
        · exact List.pairwise_cons.2 hs
        · refine List.pairwise_cons.2 ⟨fun c hc => ?_, List.pairwise_cons.2 hs⟩
          rcases List.mem_cons.1 hc with rfl | hc
          · assumption
          · exact lt_trans ‹a < k› (hs.1 c hc)
      · split
        · split
          · exact hs.2
          · subst a
            exact List.pairwise_cons.2 ⟨fun c hc => hs.1 c hc, hs.2⟩
        · refine List.pairwise_cons.2 ⟨fun c hc => ?_, ih hs.2⟩
          rcases Memory.mem_write hc with hc | ⟨rfl, -⟩
          · exact hs.1 c hc
          · show k < a
            omega
  · rcases Memory.mem_write hc with hc | ⟨rfl, hb⟩
    · exact h.2 c hc
    · exact hb

/-- Reading a list whose head is one address. -/
theorem Memory.read_cons (k : Nat) (e : Byte) (m : Memory) (a : Nat) :
    Memory.read ((k, e) :: m) a = if a = k then e else Memory.read m a := by
  simp only [Memory.read, eq_comm]

/-- Read after write. -/
theorem Memory.read_write {m : Memory} (h : m.wf) (a : Nat) (b : Byte) (a' : Nat) :
    Memory.read (Memory.write m a b) a' = if a' = a then b else Memory.read m a' := by
  obtain ⟨hs, -⟩ := h
  induction m with
  | nil =>
    simp only [Memory.write]
    split
    · next hb => simp [Memory.read, hb]
    · rw [Memory.read_cons]
  | cons d m ih =>
    obtain ⟨k, e⟩ := d
    rw [List.pairwise_cons] at hs
    have below : ∀ a, a ≤ k → Memory.read m a = unlistedByte := fun a ha =>
      Memory.read_eq_unlisted fun c hc => by have h := hs.1 c hc; simp only at h; omega
    simp only [Memory.write]
    split
    · next hak =>
      split
      · next hb =>
        split
        · next h =>
          subst h
          rw [Memory.read_cons, if_neg (by omega), below _ (by omega), hb]
        · rfl
      · rw [Memory.read_cons]
    · split
      · next hak =>
        subst hak
        split
        · next hb =>
          split
          · next h => rw [h, below _ le_rfl, hb]
          · next h => rw [Memory.read_cons, if_neg h]
        · rw [Memory.read_cons, Memory.read_cons]
          split <;> rfl
      · next hlt hne =>
        rw [Memory.read_cons, Memory.read_cons, ih hs.2]
        split
        · next h => rw [if_neg (by omega)]
        · rfl

/-! ### Many bytes -/

/-- Storing bytes keeps the canonical form. -/
theorem Memory.writeBytes_wf {m : Memory} (h : m.wf) (a : Nat) (bs : List Byte) :
    (Memory.writeBytes m a bs).wf := by
  induction bs generalizing m a with
  | nil => exact h
  | cons b bs ih => exact ih (Memory.write_wf h a b) (a + 1)

/-- The addresses listed after storing bytes. -/
theorem Memory.mem_writeBytes {m : Memory} {a : Nat} {bs : List Byte} {c : Host.Cell}
    (h : c ∈ Memory.writeBytes m a bs) : c ∈ m ∨ (a ≤ c.1 ∧ c.1 < a + bs.length) := by
  induction bs generalizing m a with
  | nil => exact .inl h
  | cons b bs ih =>
    rcases ih h with h | ⟨h1, h2⟩
    · rcases Memory.mem_write h with h | ⟨rfl, -⟩
      · exact .inl h
      · right; simp
    · right
      simp only [List.length_cons]
      omega

/-- Reading outside the bytes stored. -/
theorem Memory.read_writeBytes_outside {m : Memory} (h : m.wf) (a : Nat) (bs : List Byte) {b : Nat}
    (hb : b < a ∨ a + bs.length ≤ b) :
    Memory.read (Memory.writeBytes m a bs) b = Memory.read m b := by
  induction bs generalizing m a with
  | nil => rfl
  | cons c bs ih =>
    simp only [List.length_cons] at hb
    show Memory.read (Memory.writeBytes (Memory.write m a c) (a + 1) bs) b = _
    rw [ih (Memory.write_wf h a c) (a + 1) (by omega), Memory.read_write h, if_neg (by omega)]

/-- Reading one of the bytes stored. -/
theorem Memory.read_writeBytes_inside {m : Memory} (h : m.wf) (a : Nat) (bs : List Byte) {k : Nat}
    (hk : k < bs.length) : Memory.read (Memory.writeBytes m a bs) (a + k) = bs[k] := by
  induction bs generalizing m a k with
  | nil => simp at hk
  | cons c bs ih =>
    show Memory.read (Memory.writeBytes (Memory.write m a c) (a + 1) bs) (a + k) = _
    cases k with
    | zero =>
      rw [Memory.read_writeBytes_outside (Memory.write_wf h a c) _ _ (by omega),
        Memory.read_write h]
      simp
    | succ k =>
      have := ih (Memory.write_wf h a c) (a + 1) (k := k) (by simpa using hk)
      rw [show a + (k + 1) = a + 1 + k by omega, this]
      rfl

@[simp] theorem Memory.readBytes_length (m : Memory) (a n : Nat) :
    (m.readBytes a n).length = n := by
  induction n generalizing a with
  | zero => rfl
  | succ n ih => simp [Memory.readBytes, ih]

theorem Memory.readBytes_getElem (m : Memory) (a n k : Nat) (h : k < (m.readBytes a n).length) :
    (m.readBytes a n)[k] = Memory.read m (a + k) := by
  induction n generalizing a k with
  | zero => simp [Memory.readBytes] at h
  | succ n ih =>
    cases k with
    | zero => rfl
    | succ k =>
      simp only [Memory.readBytes, List.getElem_cons_succ]
      rw [ih, show a + 1 + k = a + (k + 1) by omega]

/-- Two memories that agree on a range read the same bytes there. -/
theorem Memory.readBytes_congr {m m' : Memory} {a n : Nat}
    (h : ∀ b, a ≤ b → b < a + n → Memory.read m' b = Memory.read m b) :
    m'.readBytes a n = m.readBytes a n := by
  induction n generalizing a with
  | zero => rfl
  | succ n ih =>
    simp only [Memory.readBytes]
    rw [h a le_rfl (by omega), ih fun b h1 h2 => h b (by omega) (by omega)]

/-- Reading back the bytes stored. -/
theorem Memory.readBytes_writeBytes {m : Memory} (h : m.wf) (a : Nat) (bs : List Byte) :
    (Memory.writeBytes m a bs).readBytes a bs.length = bs := by
  refine List.ext_getElem (by simp) fun k h1 h2 => ?_
  rw [Memory.readBytes_getElem, Memory.read_writeBytes_inside h]

/-! ### Truncation and construction -/

/-- Truncating the buffer keeps the canonical form. -/
theorem Memory.truncate_wf {m : Memory} (h : m.wf) (len : Nat) : (m.truncate len).wf :=
  ⟨h.1.filter _, fun c hc => h.2 c (List.mem_filter.1 hc).1⟩

/-- Reading after truncating the buffer. -/
theorem Memory.read_truncate (m : Memory) (len a : Nat) :
    (m.truncate len).read a = if a < len then m.read a else unlistedByte := by
  induction m with
  | nil => simp [Memory.truncate, Memory.read]
  | cons d m ih =>
    obtain ⟨k, e⟩ := d
    simp only [Memory.truncate] at ih ⊢
    simp only [List.filter_cons]
    by_cases hk : k < len
    · simp only [hk, decide_true, if_true, Memory.read, ih]
      by_cases h : k = a
      · subst h
        simp [hk]
      · simp [h]
    · simp only [hk, decide_false, Bool.false_eq_true, if_false, ih, Memory.read]
      by_cases h : k = a
      · subst h
        simp [hk]
      · simp [h]

/-- The memory of a new machine is in canonical form. -/
theorem constructed_mem_wf (c : Config) : (State.constructed c).mem.wf := by
  simp [State.constructed, Memory.wf]

/-- The memory after construction and Reset is in canonical form. -/
theorem reset_mem_wf : State.reset.mem.wf := constructed_mem_wf _

/-- Storing bytes in a state keeps the canonical form. -/
theorem State.storeBytes_wf {s : State} (h : s.mem.wf) (a : Nat) (bs : List Byte) :
    (s.storeBytes a bs).mem.wf := Memory.writeBytes_wf h a bs

/-- Loading an image keeps the canonical form (20_memory.md R78). -/
theorem State.addExecutableMemory_wf {s t : State} {bs : List Byte} {r : Region}
    (h : s.mem.wf) (ht : s.addExecutableMemory bs = some (t, r)) : t.mem.wf := by
  unfold State.addExecutableMemory at ht
  split at ht
  · cases ht
  · injection ht with ht
    injection ht with ht
    subst ht
    exact Memory.writeBytes_wf h _ _

/-- Removing the images keeps the canonical form (20_memory.md R78). -/
theorem State.removeExecutableRegions_wf {s : State} (h : s.mem.wf) :
    s.removeExecutableRegions.mem.wf := Memory.truncate_wf h _

end Sys2Proof.Machine
end

