-- ==== Sys2Proof/Laws/State.lean ====
section
/-! SUPPORT. One lemma per field per update of the state, each true by `rfl`, and the register file's
read-after-write, so that no later proof unfolds a record update. -/

namespace Sys2Proof.Machine

/-- Reading a register after writing one. -/
theorem Regs.get_set (rs : Regs) (r r' : Reg) (v : Word) :
    (rs.set r v).get r' = if r' = r then v else rs.get r' := by
  cases r <;> cases r' <;> rfl

@[simp] theorem Regs.get_set_self (rs : Regs) (r : Reg) (v : Word) : (rs.set r v).get r = v := by
  cases r <;> rfl

theorem Regs.get_set_of_ne (rs : Regs) {r r' : Reg} (v : Word) (h : r' ≠ r) :
    (rs.set r v).get r' = rs.get r' := by
  rw [Regs.get_set, if_neg h]

/-- Two register files that agree on every register are equal. -/
theorem Regs.ext_get {rs rs' : Regs} (h : ∀ r, rs.get r = rs'.get r) : rs = rs' := by
  cases rs; cases rs'
  have h1 := h .r1; have h2 := h .r2; have h3 := h .r3; have h4 := h .r4; have h5 := h .r5
  have h6 := h .r6; have h7 := h .r7; have h8 := h .r8; have h9 := h .ac; have h10 := h .ip
  have h11 := h .sp; have h12 := h .fp; have h13 := h .fl; have h14 := h .pc; have h15 := h .test
  simp only [Regs.get] at h1 h2 h3 h4 h5 h6 h7 h8 h9 h10 h11 h12 h13 h14 h15
  simp [*]

@[simp] theorem Regs.get_zero (r : Reg) : Regs.zero.get r = 0 := by cases r <;> rfl

/-- Reading a register of the state after writing one. -/
theorem State.reg_setReg (s : State) (r r' : Reg) (v : Word) :
    (s.setReg r v).reg r' = if r' = r then v else s.reg r' := Regs.get_set _ _ _ _

@[simp] theorem State.reg_setReg_self (s : State) (r : Reg) (v : Word) :
    (s.setReg r v).reg r = v := Regs.get_set_self _ _ _

@[simp] theorem State.reg_setReg_of_ne (s : State) {r r' : Reg} (v : Word) (h : r' ≠ r) :
    (s.setReg r v).reg r' = s.reg r' := Regs.get_set_of_ne _ _ h

/-! ### `State.setReg` -/

@[simp] theorem State.setReg_regs (s : State) (r : Reg) (v : Word) :
    (s.setReg r v).regs =
      s.regs.set r v := rfl
@[simp] theorem State.setReg_mem (s : State) (r : Reg) (v : Word) :
    (s.setReg r v).mem =
      s.mem := rfl
@[simp] theorem State.setReg_memLen (s : State) (r : Reg) (v : Word) :
    (s.setReg r v).memLen =
      s.memLen := rfl
@[simp] theorem State.setReg_regions (s : State) (r : Reg) (v : Word) :
    (s.setReg r v).regions =
      s.regions := rfl
@[simp] theorem State.setReg_nextSeqId (s : State) (r : Reg) (v : Word) :
    (s.setReg r v).nextSeqId =
      s.nextSeqId := rfl
@[simp] theorem State.setReg_msp (s : State) (r : Reg) (v : Word) :
    (s.setReg r v).msp =
      s.msp := rfl
@[simp] theorem State.setReg_stackTypes (s : State) (r : Reg) (v : Word) :
    (s.setReg r v).stackTypes =
      s.stackTypes := rfl
@[simp] theorem State.setReg_fsz (s : State) (r : Reg) (v : Word) :
    (s.setReg r v).fsz =
      s.fsz := rfl
@[simp] theorem State.setReg_depth (s : State) (r : Reg) (v : Word) :
    (s.setReg r v).depth =
      s.depth := rfl
@[simp] theorem State.setReg_halted (s : State) (r : Reg) (v : Word) :
    (s.setReg r v).halted =
      s.halted := rfl
@[simp] theorem State.setReg_fault (s : State) (r : Reg) (v : Word) :
    (s.setReg r v).fault =
      s.fault := rfl
@[simp] theorem State.setReg_cfg (s : State) (r : Reg) (v : Word) :
    (s.setReg r v).cfg =
      s.cfg := rfl
@[simp] theorem State.setReg_trace (s : State) (r : Reg) (v : Word) :
    (s.setReg r v).trace =
      s.trace := rfl

/-! ### `State.storeBytes` -/

@[simp] theorem State.storeBytes_regs (s : State) (a : Nat) (bs : List Byte) :
    (s.storeBytes a bs).regs =
      s.regs := rfl
@[simp] theorem State.storeBytes_mem (s : State) (a : Nat) (bs : List Byte) :
    (s.storeBytes a bs).mem =
      s.mem.writeBytes a bs := rfl
@[simp] theorem State.storeBytes_memLen (s : State) (a : Nat) (bs : List Byte) :
    (s.storeBytes a bs).memLen =
      s.memLen := rfl
@[simp] theorem State.storeBytes_regions (s : State) (a : Nat) (bs : List Byte) :
    (s.storeBytes a bs).regions =
      s.regions := rfl
@[simp] theorem State.storeBytes_nextSeqId (s : State) (a : Nat) (bs : List Byte) :
    (s.storeBytes a bs).nextSeqId =
      s.nextSeqId := rfl
@[simp] theorem State.storeBytes_msp (s : State) (a : Nat) (bs : List Byte) :
    (s.storeBytes a bs).msp =
      s.msp := rfl
@[simp] theorem State.storeBytes_stackTypes (s : State) (a : Nat) (bs : List Byte) :
    (s.storeBytes a bs).stackTypes =
      s.stackTypes := rfl
@[simp] theorem State.storeBytes_fsz (s : State) (a : Nat) (bs : List Byte) :
    (s.storeBytes a bs).fsz =
      s.fsz := rfl
@[simp] theorem State.storeBytes_depth (s : State) (a : Nat) (bs : List Byte) :
    (s.storeBytes a bs).depth =
      s.depth := rfl
@[simp] theorem State.storeBytes_halted (s : State) (a : Nat) (bs : List Byte) :
    (s.storeBytes a bs).halted =
      s.halted := rfl
@[simp] theorem State.storeBytes_fault (s : State) (a : Nat) (bs : List Byte) :
    (s.storeBytes a bs).fault =
      s.fault := rfl
@[simp] theorem State.storeBytes_cfg (s : State) (a : Nat) (bs : List Byte) :
    (s.storeBytes a bs).cfg =
      s.cfg := rfl
@[simp] theorem State.storeBytes_trace (s : State) (a : Nat) (bs : List Byte) :
    (s.storeBytes a bs).trace =
      s.trace := rfl

@[simp] theorem State.storeBytes_reg (s : State) (a : Nat) (bs : List Byte) (r' : Reg) :
    (s.storeBytes a bs).reg r' = s.reg r' := rfl

/-! ### `State.pushed` -/

@[simp] theorem State.pushed_regs (s : State) :
    (s.pushed).regs = s.regs := rfl
@[simp] theorem State.pushed_mem (s : State) :
    (s.pushed).mem = s.mem := rfl
@[simp] theorem State.pushed_memLen (s : State) :
    (s.pushed).memLen = s.memLen := rfl
@[simp] theorem State.pushed_regions (s : State) :
    (s.pushed).regions = s.regions := rfl
@[simp] theorem State.pushed_nextSeqId (s : State) :
    (s.pushed).nextSeqId = s.nextSeqId := rfl
@[simp] theorem State.pushed_msp (s : State) :
    (s.pushed).msp = s.msp - 4 := rfl
@[simp] theorem State.pushed_stackTypes (s : State) :
    (s.pushed).stackTypes =
      if s.cfg.debugStackTypes then s.stackTypes ++ [.int] else s.stackTypes := rfl
@[simp] theorem State.pushed_fsz (s : State) :
    (s.pushed).fsz = s.fsz := rfl
@[simp] theorem State.pushed_depth (s : State) :
    (s.pushed).depth = s.depth := rfl
@[simp] theorem State.pushed_halted (s : State) :
    (s.pushed).halted = s.halted := rfl
@[simp] theorem State.pushed_fault (s : State) :
    (s.pushed).fault = s.fault := rfl
@[simp] theorem State.pushed_cfg (s : State) :
    (s.pushed).cfg = s.cfg := rfl
@[simp] theorem State.pushed_trace (s : State) :
    (s.pushed).trace = s.trace := rfl

@[simp] theorem State.pushed_reg (s : State) (r' : Reg) :
    (s.pushed).reg r' = s.reg r' := rfl

/-! ### `State.popped` -/

@[simp] theorem State.popped_regs (s : State) :
    (s.popped).regs = s.regs := rfl
@[simp] theorem State.popped_mem (s : State) :
    (s.popped).mem = s.mem := rfl
@[simp] theorem State.popped_memLen (s : State) :
    (s.popped).memLen = s.memLen := rfl
@[simp] theorem State.popped_regions (s : State) :
    (s.popped).regions = s.regions := rfl
@[simp] theorem State.popped_nextSeqId (s : State) :
    (s.popped).nextSeqId = s.nextSeqId := rfl
@[simp] theorem State.popped_msp (s : State) :
    (s.popped).msp = s.msp + 4 := rfl
@[simp] theorem State.popped_stackTypes (s : State) :
    (s.popped).stackTypes =
      if s.cfg.debugStackTypes then s.stackTypes.dropLast else s.stackTypes := rfl
@[simp] theorem State.popped_fsz (s : State) :
    (s.popped).fsz = s.fsz := rfl
@[simp] theorem State.popped_depth (s : State) :
    (s.popped).depth = s.depth := rfl
@[simp] theorem State.popped_halted (s : State) :
    (s.popped).halted = s.halted := rfl
@[simp] theorem State.popped_fault (s : State) :
    (s.popped).fault = s.fault := rfl
@[simp] theorem State.popped_cfg (s : State) :
    (s.popped).cfg = s.cfg := rfl
@[simp] theorem State.popped_trace (s : State) :
    (s.popped).trace = s.trace := rfl

@[simp] theorem State.popped_reg (s : State) (r' : Reg) :
    (s.popped).reg r' = s.reg r' := rfl

/-! ### `State.droppedTo` -/

@[simp] theorem State.droppedTo_regs (s : State) (a : Int) :
    (s.droppedTo a).regs = s.regs := rfl
@[simp] theorem State.droppedTo_mem (s : State) (a : Int) :
    (s.droppedTo a).mem = s.mem := rfl
@[simp] theorem State.droppedTo_memLen (s : State) (a : Int) :
    (s.droppedTo a).memLen =
      s.memLen := rfl
@[simp] theorem State.droppedTo_regions (s : State) (a : Int) :
    (s.droppedTo a).regions =
      s.regions := rfl
@[simp] theorem State.droppedTo_nextSeqId (s : State) (a : Int) :
    (s.droppedTo a).nextSeqId =
      s.nextSeqId := rfl
@[simp] theorem State.droppedTo_msp (s : State) (a : Int) :
    (s.droppedTo a).msp = a := rfl
@[simp] theorem State.droppedTo_stackTypes (s : State) (a : Int) :
    (s.droppedTo a).stackTypes =
      if s.cfg.debugStackTypes then
        s.stackTypes.take (s.stackTypes.length - (dropCount s.msp a).toNat)
      else s.stackTypes := rfl
@[simp] theorem State.droppedTo_fsz (s : State) (a : Int) :
    (s.droppedTo a).fsz = s.fsz := rfl
@[simp] theorem State.droppedTo_depth (s : State) (a : Int) :
    (s.droppedTo a).depth = s.depth := rfl
@[simp] theorem State.droppedTo_halted (s : State) (a : Int) :
    (s.droppedTo a).halted =
      s.halted := rfl
@[simp] theorem State.droppedTo_fault (s : State) (a : Int) :
    (s.droppedTo a).fault = s.fault := rfl
@[simp] theorem State.droppedTo_cfg (s : State) (a : Int) :
    (s.droppedTo a).cfg = s.cfg := rfl
@[simp] theorem State.droppedTo_trace (s : State) (a : Int) :
    (s.droppedTo a).trace = s.trace := rfl

@[simp] theorem State.droppedTo_reg (s : State) (a : Int) (r' : Reg) :
    (s.droppedTo a).reg r' = s.reg r' := rfl

/-! ### `State.clearStack` -/

@[simp] theorem State.clearStack_regs (s : State) :
    (s.clearStack).regs = s.regs := rfl
@[simp] theorem State.clearStack_mem (s : State) :
    (s.clearStack).mem = s.mem := rfl
@[simp] theorem State.clearStack_memLen (s : State) :
    (s.clearStack).memLen = s.memLen := rfl
@[simp] theorem State.clearStack_regions (s : State) :
    (s.clearStack).regions = s.regions := rfl
@[simp] theorem State.clearStack_nextSeqId (s : State) :
    (s.clearStack).nextSeqId =
      s.nextSeqId := rfl
@[simp] theorem State.clearStack_msp (s : State) :
    (s.clearStack).msp = s.cfg.stackEnd := rfl
@[simp] theorem State.clearStack_stackTypes (s : State) :
    (s.clearStack).stackTypes = [] := rfl
@[simp] theorem State.clearStack_fsz (s : State) :
    (s.clearStack).fsz = s.fsz := rfl
@[simp] theorem State.clearStack_depth (s : State) :
    (s.clearStack).depth = s.depth := rfl
@[simp] theorem State.clearStack_halted (s : State) :
    (s.clearStack).halted = s.halted := rfl
@[simp] theorem State.clearStack_fault (s : State) :
    (s.clearStack).fault = s.fault := rfl
@[simp] theorem State.clearStack_cfg (s : State) :
    (s.clearStack).cfg = s.cfg := rfl
@[simp] theorem State.clearStack_trace (s : State) :
    (s.clearStack).trace = s.trace := rfl

@[simp] theorem State.clearStack_reg (s : State) (r' : Reg) :
    (s.clearStack).reg r' = s.reg r' := rfl

/-! ### `State.takeFault` -/

@[simp] theorem State.takeFault_regs (s : State) (a0 : Int) (f : Fault) :
    (s.takeFault a0 f).regs =
      s.regs := rfl
@[simp] theorem State.takeFault_mem (s : State) (a0 : Int) (f : Fault) :
    (s.takeFault a0 f).mem =
      s.mem := rfl
@[simp] theorem State.takeFault_memLen (s : State) (a0 : Int) (f : Fault) :
    (s.takeFault a0 f).memLen =
      s.memLen := rfl
@[simp] theorem State.takeFault_regions (s : State) (a0 : Int) (f : Fault) :
    (s.takeFault a0 f).regions =
      s.regions := rfl
@[simp] theorem State.takeFault_nextSeqId (s : State) (a0 : Int) (f : Fault) :
    (s.takeFault a0 f).nextSeqId =
      s.nextSeqId := rfl
@[simp] theorem State.takeFault_msp (s : State) (a0 : Int) (f : Fault) :
    (s.takeFault a0 f).msp =
      s.msp := rfl
@[simp] theorem State.takeFault_stackTypes (s : State) (a0 : Int) (f : Fault) :
    (s.takeFault a0 f).stackTypes =
      s.stackTypes := rfl
@[simp] theorem State.takeFault_fsz (s : State) (a0 : Int) (f : Fault) :
    (s.takeFault a0 f).fsz =
      s.fsz := rfl
@[simp] theorem State.takeFault_depth (s : State) (a0 : Int) (f : Fault) :
    (s.takeFault a0 f).depth =
      s.depth := rfl
@[simp] theorem State.takeFault_halted (s : State) (a0 : Int) (f : Fault) :
    (s.takeFault a0 f).halted =
      true := rfl
@[simp] theorem State.takeFault_fault (s : State) (a0 : Int) (f : Fault) :
    (s.takeFault a0 f).fault =
      some ⟨f, a0⟩ := rfl
@[simp] theorem State.takeFault_cfg (s : State) (a0 : Int) (f : Fault) :
    (s.takeFault a0 f).cfg =
      s.cfg := rfl
@[simp] theorem State.takeFault_trace (s : State) (a0 : Int) (f : Fault) :
    (s.takeFault a0 f).trace =
      s.trace := rfl

@[simp] theorem State.takeFault_reg (s : State) (a0 : Int) (f : Fault) (r' : Reg) :
    (s.takeFault a0 f).reg r' = s.reg r' := rfl

/-! ### `State.retire` -/

@[simp] theorem State.retire_regs (s : State) (a0 : Int) (q : Bool) :
    (s.retire a0 q).regs =
      s.regs.set .pc (wrap32 ((s.reg .pc).toInt + 1)) := rfl
@[simp] theorem State.retire_mem (s : State) (a0 : Int) (q : Bool) :
    (s.retire a0 q).mem =
      s.mem := rfl
@[simp] theorem State.retire_memLen (s : State) (a0 : Int) (q : Bool) :
    (s.retire a0 q).memLen =
      s.memLen := rfl
@[simp] theorem State.retire_regions (s : State) (a0 : Int) (q : Bool) :
    (s.retire a0 q).regions =
      s.regions := rfl
@[simp] theorem State.retire_nextSeqId (s : State) (a0 : Int) (q : Bool) :
    (s.retire a0 q).nextSeqId =
      s.nextSeqId := rfl
@[simp] theorem State.retire_msp (s : State) (a0 : Int) (q : Bool) :
    (s.retire a0 q).msp =
      s.msp := rfl
@[simp] theorem State.retire_stackTypes (s : State) (a0 : Int) (q : Bool) :
    (s.retire a0 q).stackTypes =
      s.stackTypes := rfl
@[simp] theorem State.retire_fsz (s : State) (a0 : Int) (q : Bool) :
    (s.retire a0 q).fsz =
      s.fsz := rfl
@[simp] theorem State.retire_depth (s : State) (a0 : Int) (q : Bool) :
    (s.retire a0 q).depth =
      s.depth := rfl
@[simp] theorem State.retire_fault (s : State) (a0 : Int) (q : Bool) :
    (s.retire a0 q).fault =
      s.fault := rfl
@[simp] theorem State.retire_cfg (s : State) (a0 : Int) (q : Bool) :
    (s.retire a0 q).cfg =
      s.cfg := rfl
@[simp] theorem State.retire_trace (s : State) (a0 : Int) (q : Bool) :
    (s.retire a0 q).trace =
      s.trace := rfl

/-! ### `State.advance` -/

@[simp] theorem State.advance_regs (s : State) (i : Instr) :
    (s.advance i).regs =
      s.regs.set .ip (wrap32 ((s.reg .ip).toInt + i.length)) := rfl
@[simp] theorem State.advance_mem (s : State) (i : Instr) :
    (s.advance i).mem = s.mem := rfl
@[simp] theorem State.advance_memLen (s : State) (i : Instr) :
    (s.advance i).memLen =
      s.memLen := rfl
@[simp] theorem State.advance_regions (s : State) (i : Instr) :
    (s.advance i).regions =
      s.regions := rfl
@[simp] theorem State.advance_nextSeqId (s : State) (i : Instr) :
    (s.advance i).nextSeqId =
      s.nextSeqId := rfl
@[simp] theorem State.advance_msp (s : State) (i : Instr) :
    (s.advance i).msp = s.msp := rfl
@[simp] theorem State.advance_stackTypes (s : State) (i : Instr) :
    (s.advance i).stackTypes =
      s.stackTypes := rfl
@[simp] theorem State.advance_fsz (s : State) (i : Instr) :
    (s.advance i).fsz = s.fsz := rfl
@[simp] theorem State.advance_depth (s : State) (i : Instr) :
    (s.advance i).depth = s.depth := rfl
@[simp] theorem State.advance_halted (s : State) (i : Instr) :
    (s.advance i).halted =
      s.halted := rfl
@[simp] theorem State.advance_fault (s : State) (i : Instr) :
    (s.advance i).fault = s.fault := rfl
@[simp] theorem State.advance_cfg (s : State) (i : Instr) :
    (s.advance i).cfg = s.cfg := rfl
@[simp] theorem State.advance_trace (s : State) (i : Instr) :
    (s.advance i).trace = s.trace := rfl

/-! ### `State.pastOpcode` -/

@[simp] theorem State.pastOpcode_regs (s : State) :
    (s.pastOpcode).regs =
      s.regs.set .ip (wrap32 ((s.reg .ip).toInt + 4)) := rfl
@[simp] theorem State.pastOpcode_mem (s : State) :
    (s.pastOpcode).mem = s.mem := rfl
@[simp] theorem State.pastOpcode_memLen (s : State) :
    (s.pastOpcode).memLen = s.memLen := rfl
@[simp] theorem State.pastOpcode_regions (s : State) :
    (s.pastOpcode).regions = s.regions := rfl
@[simp] theorem State.pastOpcode_nextSeqId (s : State) :
    (s.pastOpcode).nextSeqId =
      s.nextSeqId := rfl
@[simp] theorem State.pastOpcode_msp (s : State) :
    (s.pastOpcode).msp = s.msp := rfl
@[simp] theorem State.pastOpcode_stackTypes (s : State) :
    (s.pastOpcode).stackTypes =
      s.stackTypes := rfl
@[simp] theorem State.pastOpcode_fsz (s : State) :
    (s.pastOpcode).fsz = s.fsz := rfl
@[simp] theorem State.pastOpcode_depth (s : State) :
    (s.pastOpcode).depth = s.depth := rfl
@[simp] theorem State.pastOpcode_halted (s : State) :
    (s.pastOpcode).halted = s.halted := rfl
@[simp] theorem State.pastOpcode_fault (s : State) :
    (s.pastOpcode).fault = s.fault := rfl
@[simp] theorem State.pastOpcode_cfg (s : State) :
    (s.pastOpcode).cfg = s.cfg := rfl
@[simp] theorem State.pastOpcode_trace (s : State) :
    (s.pastOpcode).trace = s.trace := rfl

/-! ### `State.cpuReset` -/

@[simp] theorem State.cpuReset_regs (s : State) :
    (s.cpuReset).regs = Regs.zero := rfl
@[simp] theorem State.cpuReset_mem (s : State) :
    (s.cpuReset).mem = s.mem := rfl
@[simp] theorem State.cpuReset_memLen (s : State) :
    (s.cpuReset).memLen = s.memLen := rfl
@[simp] theorem State.cpuReset_regions (s : State) :
    (s.cpuReset).regions = s.regions := rfl
@[simp] theorem State.cpuReset_nextSeqId (s : State) :
    (s.cpuReset).nextSeqId = s.nextSeqId := rfl
@[simp] theorem State.cpuReset_msp (s : State) :
    (s.cpuReset).msp = s.msp := rfl
@[simp] theorem State.cpuReset_stackTypes (s : State) :
    (s.cpuReset).stackTypes =
      s.stackTypes := rfl
@[simp] theorem State.cpuReset_fsz (s : State) :
    (s.cpuReset).fsz = 0 := rfl
@[simp] theorem State.cpuReset_depth (s : State) :
    (s.cpuReset).depth = 0 := rfl
@[simp] theorem State.cpuReset_halted (s : State) :
    (s.cpuReset).halted = false := rfl
@[simp] theorem State.cpuReset_fault (s : State) :
    (s.cpuReset).fault = none := rfl
@[simp] theorem State.cpuReset_cfg (s : State) :
    (s.cpuReset).cfg = s.cfg := rfl
@[simp] theorem State.cpuReset_trace (s : State) :
    (s.cpuReset).trace = s.trace := rfl

/-! ### `State.counted` -/

@[simp] theorem State.counted_regs (s : State) (n : Int) :
    (s.counted n).regs = s.regs := rfl
@[simp] theorem State.counted_mem (s : State) (n : Int) :
    (s.counted n).mem = s.mem := rfl
@[simp] theorem State.counted_memLen (s : State) (n : Int) :
    (s.counted n).memLen = s.memLen := rfl
@[simp] theorem State.counted_regions (s : State) (n : Int) :
    (s.counted n).regions = s.regions := rfl
@[simp] theorem State.counted_nextSeqId (s : State) (n : Int) :
    (s.counted n).nextSeqId = s.nextSeqId := rfl
@[simp] theorem State.counted_msp (s : State) (n : Int) :
    (s.counted n).msp = s.msp := rfl
@[simp] theorem State.counted_stackTypes (s : State) (n : Int) :
    (s.counted n).stackTypes = s.stackTypes := rfl
@[simp] theorem State.counted_fsz (s : State) (n : Int) :
    (s.counted n).fsz = wrap32 (s.fsz.toInt + n) := rfl
@[simp] theorem State.counted_depth (s : State) (n : Int) :
    (s.counted n).depth = s.depth := rfl
@[simp] theorem State.counted_halted (s : State) (n : Int) :
    (s.counted n).halted = s.halted := rfl
@[simp] theorem State.counted_fault (s : State) (n : Int) :
    (s.counted n).fault = s.fault := rfl
@[simp] theorem State.counted_cfg (s : State) (n : Int) :
    (s.counted n).cfg = s.cfg := rfl
@[simp] theorem State.counted_trace (s : State) (n : Int) :
    (s.counted n).trace = s.trace := rfl

@[simp] theorem State.counted_reg (s : State) (n : Int) (r' : Reg) :
    (s.counted n).reg r' = s.reg r' := rfl

/-! ### `State.entered` -/

@[simp] theorem State.entered_regs (s : State) :
    (s.entered).regs = s.regs := rfl
@[simp] theorem State.entered_mem (s : State) :
    (s.entered).mem = s.mem := rfl
@[simp] theorem State.entered_memLen (s : State) :
    (s.entered).memLen = s.memLen := rfl
@[simp] theorem State.entered_regions (s : State) :
    (s.entered).regions = s.regions := rfl
@[simp] theorem State.entered_nextSeqId (s : State) :
    (s.entered).nextSeqId = s.nextSeqId := rfl
@[simp] theorem State.entered_msp (s : State) :
    (s.entered).msp = s.msp := rfl
@[simp] theorem State.entered_stackTypes (s : State) :
    (s.entered).stackTypes = s.stackTypes := rfl
@[simp] theorem State.entered_fsz (s : State) :
    (s.entered).fsz = 0 := rfl
@[simp] theorem State.entered_depth (s : State) :
    (s.entered).depth = s.depth + 1 := rfl
@[simp] theorem State.entered_halted (s : State) :
    (s.entered).halted = s.halted := rfl
@[simp] theorem State.entered_fault (s : State) :
    (s.entered).fault = s.fault := rfl
@[simp] theorem State.entered_cfg (s : State) :
    (s.entered).cfg = s.cfg := rfl
@[simp] theorem State.entered_trace (s : State) :
    (s.entered).trace = s.trace := rfl

@[simp] theorem State.entered_reg (s : State) (r' : Reg) :
    (s.entered).reg r' = s.reg r' := rfl

/-! ### `State.returned` -/

@[simp] theorem State.returned_regs (s : State) (size n : Word) :
    (s.returned size n).regs = s.regs := rfl
@[simp] theorem State.returned_mem (s : State) (size n : Word) :
    (s.returned size n).mem = s.mem := rfl
@[simp] theorem State.returned_memLen (s : State) (size n : Word) :
    (s.returned size n).memLen = s.memLen := rfl
@[simp] theorem State.returned_regions (s : State) (size n : Word) :
    (s.returned size n).regions = s.regions := rfl
@[simp] theorem State.returned_nextSeqId (s : State) (size n : Word) :
    (s.returned size n).nextSeqId = s.nextSeqId := rfl
@[simp] theorem State.returned_msp (s : State) (size n : Word) :
    (s.returned size n).msp = s.msp := rfl
@[simp] theorem State.returned_stackTypes (s : State) (size n : Word) :
    (s.returned size n).stackTypes = s.stackTypes := rfl
@[simp] theorem State.returned_fsz (s : State) (size n : Word) :
    (s.returned size n).fsz = wrap32 (size.toInt - 44 - 4 * n.toInt) := rfl
@[simp] theorem State.returned_depth (s : State) (size n : Word) :
    (s.returned size n).depth = s.depth - 1 := rfl
@[simp] theorem State.returned_halted (s : State) (size n : Word) :
    (s.returned size n).halted = s.halted := rfl
@[simp] theorem State.returned_fault (s : State) (size n : Word) :
    (s.returned size n).fault = s.fault := rfl
@[simp] theorem State.returned_cfg (s : State) (size n : Word) :
    (s.returned size n).cfg = s.cfg := rfl
@[simp] theorem State.returned_trace (s : State) (size n : Word) :
    (s.returned size n).trace = s.trace := rfl

@[simp] theorem State.returned_reg (s : State) (size n : Word) (r' : Reg) :
    (s.returned size n).reg r' = s.reg r' := rfl

/-! ### `State.emitted` -/

@[simp] theorem State.emitted_regs (s : State) (e : DeviceEvent) :
    (s.emitted e).regs = s.regs := rfl
@[simp] theorem State.emitted_mem (s : State) (e : DeviceEvent) :
    (s.emitted e).mem = s.mem := rfl
@[simp] theorem State.emitted_memLen (s : State) (e : DeviceEvent) :
    (s.emitted e).memLen = s.memLen := rfl
@[simp] theorem State.emitted_regions (s : State) (e : DeviceEvent) :
    (s.emitted e).regions = s.regions := rfl
@[simp] theorem State.emitted_nextSeqId (s : State) (e : DeviceEvent) :
    (s.emitted e).nextSeqId = s.nextSeqId := rfl
@[simp] theorem State.emitted_msp (s : State) (e : DeviceEvent) :
    (s.emitted e).msp = s.msp := rfl
@[simp] theorem State.emitted_stackTypes (s : State) (e : DeviceEvent) :
    (s.emitted e).stackTypes = s.stackTypes := rfl
@[simp] theorem State.emitted_fsz (s : State) (e : DeviceEvent) :
    (s.emitted e).fsz = s.fsz := rfl
@[simp] theorem State.emitted_depth (s : State) (e : DeviceEvent) :
    (s.emitted e).depth = s.depth := rfl
@[simp] theorem State.emitted_halted (s : State) (e : DeviceEvent) :
    (s.emitted e).halted = s.halted := rfl
@[simp] theorem State.emitted_fault (s : State) (e : DeviceEvent) :
    (s.emitted e).fault = s.fault := rfl
@[simp] theorem State.emitted_cfg (s : State) (e : DeviceEvent) :
    (s.emitted e).cfg = s.cfg := rfl
@[simp] theorem State.emitted_trace (s : State) (e : DeviceEvent) :
    (s.emitted e).trace = s.trace ++ [e] := rfl

@[simp] theorem State.emitted_reg (s : State) (e : DeviceEvent) (r' : Reg) :
    (s.emitted e).reg r' = s.reg r' := rfl

/-! ### Registers after the compound updates -/

theorem State.retire_reg (s : State) (a0 : Int) (q : Bool) (r : Reg) :
    (s.retire a0 q).reg r =
      if r = .pc then wrap32 ((s.reg .pc).toInt + 1) else s.reg r := Regs.get_set _ _ _ _

theorem State.advance_reg (s : State) (i : Instr) (r : Reg) :
    (s.advance i).reg r =
      if r = .ip then wrap32 ((s.reg .ip).toInt + i.length) else s.reg r := Regs.get_set _ _ _ _

theorem State.pastOpcode_reg (s : State) (r : Reg) :
    s.pastOpcode.reg r = if r = .ip then wrap32 ((s.reg .ip).toInt + 4) else s.reg r :=
  Regs.get_set _ _ _ _

@[simp] theorem State.cpuReset_reg (s : State) (r : Reg) : s.cpuReset.reg r = 0 := Regs.get_zero r

/-- The halt flag at the end of a cycle. -/
theorem State.retire_halted (s : State) (a0 : Int) (q : Bool) :
    (s.retire a0 q).halted =
      (s.halted || q ||
        (s.setReg .pc (wrap32 ((s.reg .pc).toInt + 1))).pastFetchRegion a0) := rfl

/-- Resolution depends on the region table and the buffer's length alone. -/
theorem State.resolve_congr {s t : State} (hr : t.regions = s.regions) (hl : t.memLen = s.memLen)
    (a : Int) : t.resolve a = s.resolve a := by
  simp only [State.resolve, hr, hl]

@[simp] theorem State.resolve_setReg (s : State) (r : Reg) (v : Word) (a : Int) :
    (s.setReg r v).resolve a = s.resolve a := rfl

@[simp] theorem State.resolve_storeBytes (s : State) (b : Nat) (bs : List Byte) (a : Int) :
    (s.storeBytes b bs).resolve a = s.resolve a := rfl

@[simp] theorem State.resolve_advance (s : State) (i : Instr) (a : Int) :
    (s.advance i).resolve a = s.resolve a := rfl

end Sys2Proof.Machine
end

