-- ==== Sys2Proof/Laws/Ops.lean ====
section
/-! SUPPORT. For each shared operation, one equation that says everything it can do: every outcome with
the state it leaves. Later proofs rewrite with these instead of unfolding the operations. -/

namespace Sys2Proof.Machine

/-! ### Actions -/

/-- Two statements in order: the first raise ends them. -/
@[simp] theorem Act.bind_apply {α β : Type} (x : Act α) (k : α → Act β) (s : State) :
    (x >>= k) s =
      match x s with
      | .ok a s' => k a s'
      | .error f s' => .error f s' := by
  show EStateM.bind x k s = _
  unfold EStateM.bind
  cases x s <;> rfl

@[simp] theorem Act.pure_apply {α : Type} (a : α) (s : State) : (pure a : Act α) s = .ok a s := rfl

@[simp] theorem raise_apply {α : Type} (f : Fault) (s : State) : (raise f : Act α) s = .error f s :=
  rfl

@[simp] theorem require_true (f : Fault) (s : State) : require true f s = .ok () s := rfl

@[simp] theorem require_false (f : Fault) (s : State) : require false f s = .error f s := rfl

theorem require_apply (b : Bool) (f : Fault) (s : State) :
    require b f s = if b then .ok () s else .error f s := rfl

@[simp] theorem theState_apply (s : State) : theState s = .ok s s := rfl

@[simp] theorem update_apply (g : State → State) (s : State) : update g s = .ok () (g s) := rfl

@[simp] theorem getReg_apply (r : Reg) (s : State) : getReg r s = .ok (s.reg r) s := rfl

/-- A check before the statements that follow it. -/
theorem require_bind {β : Type} (b : Bool) (f : Fault) (k : Unit → Act β) (s : State) :
    (require b f >>= k) s = if b then k () s else .error f s := by
  rw [Act.bind_apply, require_apply]
  cases b <;> rfl

/-- The state, for the statements that follow. -/
theorem theState_bind {β : Type} (k : State → Act β) (s : State) :
    (theState >>= k) s = k s s := Act.bind_apply _ _ _

theorem inspect_apply {α : Type} (g : State → Except Fault α) (s : State) :
    inspect g s =
      match g s with
      | .ok a => .ok a s
      | .error f => .error f s := rfl

/-- An inspection that raises or answers leaves the state as it is. -/
theorem inspect_ok {α : Type} {g : State → Except Fault α} {s s' : State} {a : α}
    (h : inspect g s = .ok a s') : g s = .ok a ∧ s' = s := by
  unfold inspect at h
  split at h
  · injection h with h1 h2
    exact ⟨h1 ▸ ‹_›, h2.symm⟩
  · cases h

theorem inspect_error {α : Type} {g : State → Except Fault α} {s s' : State} {f : Fault}
    (h : inspect g s = .error f s') : g s = .error f ∧ s' = s := by
  unfold inspect at h
  split at h
  · cases h
  · injection h with h1 h2
    exact ⟨h1 ▸ ‹_›, h2.symm⟩

@[simp] theorem thenGoOn_apply (body : Act Unit) (s : State) :
    thenGoOn body s =
      match body s with
      | .ok _ s' => .ok false s'
      | .error f s' => .error f s' := by
  simp only [thenGoOn, Act.bind_apply]
  cases body s <;> rfl

/-! ### Registers -/

@[simp] theorem writeAllowed_system (r : Reg) : writeAllowed .system r = true := by
  cases r <;> rfl

@[simp] theorem writeAllowed_user (r : Reg) : writeAllowed .user r = !isPrivileged r := by
  cases r <;> rfl

/-- The write gate (10_state.md R24). -/
theorem writeReg_apply (ctx : Context) (r : Reg) (v : Word) (s : State) :
    writeReg ctx r v s =
      if writeAllowed ctx r then .ok () (s.setReg r v) else .error (.invalidRegister r) s := by
  rw [writeReg, require_bind]
  rfl

/-- A System write always succeeds (10_state.md R24). -/
@[simp] theorem writeReg_system (r : Reg) (v : Word) (s : State) :
    writeReg .system r v s = .ok () (s.setReg r v) := by
  simp [writeReg_apply]

/-- A named destination (10_state.md R26). -/
theorem writeDestination_apply (rd : Reg) (v : Word) (s : State) :
    writeDestination rd v s =
      if isPrivileged rd then .error (.invalidRegister rd) s else .ok () (s.setReg rd v) := by
  simp only [writeDestination, writeReg_apply, writeAllowed_user]
  cases isPrivileged rd <;> rfl

/-! ### Checked memory access -/

/-- What a resolved address means (20_memory.md R64). -/
theorem State.resolve_some {s : State} {a : Int} {r : Region} (h : s.resolve a = some r) :
    r ∈ s.regions ∧ (r.start : Int) ≤ a ∧ a < r.stop ∧ a < s.memLen := by
  unfold State.resolve at h
  split at h
  · have hm := List.mem_of_find?_eq_some h
    have hp := List.find?_some h
    simp only [Region.holds, Bool.and_eq_true, decide_eq_true_eq] at hp
    exact ⟨hm, hp.1, hp.2, ‹_›⟩
  · cases h

/-- A checked read that succeeds (20_memory.md R66). -/
theorem State.memRead_ok {s : State} {a : Int} {n : Nat} {ctx : Context} {fetch : Bool}
    {bs : List Byte} (h : s.memRead a n ctx fetch = .ok bs) :
    (n = 0 ∧ bs = []) ∨
      (n ≠ 0 ∧ bs = s.mem.readBytes a.toNat n ∧ ∃ r, s.resolve a = some r ∧ a + n ≤ r.stop ∧
        permitted .read ctx r.flags = true ∧
        (fetch = true → permitted .execute ctx r.flags = true)) := by
  unfold State.memRead at h
  split at h
  · exact .inl ⟨‹_›, by injection h with h; exact h.symm⟩
  · refine .inr ⟨‹_›, ?_⟩
    split at h
    · cases h
    · split at h
      · cases h
      · split at h
        · cases h
        · split at h
          · cases h
          · injection h with h
            refine ⟨h.symm, _, ‹_›, by omega, by simp_all, fun hf => by simp_all⟩

/-- A checked read that every check admits (20_memory.md R66). -/
theorem State.memRead_of_ok {s : State} {a : Int} {n : Nat} {ctx : Context} {fetch : Bool}
    {r : Region} (hr : s.resolve a = some r) (hn : a + n ≤ r.stop)
    (hp : permitted .read ctx r.flags = true)
    (hx : fetch = true → permitted .execute ctx r.flags = true) :
    s.memRead a n ctx fetch = .ok (s.mem.readBytes a.toNat n) := by
  unfold State.memRead
  split
  · next h => subst h; rfl
  · rw [hr]
    have h1 : ¬ ((r.stop : Int) < a + n) := by omega
    cases fetch <;> simp_all

/-- Every byte a checked write touches lies in one region that permits it (20_memory.md R67). -/
theorem State.writeFault_none {s : State} {a : Int} {n : Nat} {ctx : Context} :
    s.writeFault a n ctx = none ↔
      ∃ r, s.resolve a = some r ∧ a + n ≤ r.stop ∧ permitted .write ctx r.flags = true := by
  unfold State.writeFault
  cases hr : s.resolve a with
  | none => simp
  | some r =>
    by_cases h1 : (r.stop : Int) < a + n
    · have h2 : ¬ (a + n ≤ r.stop) := by omega
      simp [h1, h2]
    · have h2 : a + n ≤ r.stop := by omega
      cases hp : permitted .write ctx r.flags <;> simp [h1, h2, hp]

/-- The checked write (20_memory.md R67): a write that faults changes no byte. -/
theorem memWrite_apply (a : Int) (bs : List Byte) (ctx : Context) (s : State) :
    memWrite a bs ctx s =
      match s.writeFault a bs.length ctx with
      | some f => .error f s
      | none => .ok () (s.storeBytes a.toNat bs) := rfl

theorem storeInt_apply (a : Int) (v : Word) (ctx : Context) (s : State) :
    storeInt a v ctx s =
      match s.writeFault a 4 ctx with
      | some f => .error f s
      | none => .ok () (s.storeBytes a.toNat (bytesLe32 v)) := rfl

/-- A checked 32-bit read (20_memory.md R66, R72). -/
theorem State.getInt_apply (s : State) (a : Int) (ctx : Context) (fetch : Bool) :
    s.getInt a ctx fetch =
      match s.memRead a 4 ctx fetch with
      | .ok bs => .ok (le32 bs)
      | .error f => .error f := by
  simp only [State.getInt, readInt, State.reader, Int.natCast_zero, Int.add_zero]
  cases s.memRead a 4 ctx fetch <;> rfl

theorem loadInt_apply (a : Int) (ctx : Context) (s : State) :
    loadInt a ctx s =
      match s.memRead a 4 ctx false with
      | .ok bs => .ok (le32 bs) s
      | .error f => .error f s := by
  simp only [loadInt, inspect_apply, State.getInt_apply]
  cases s.memRead a 4 ctx false <;> rfl

/-! ### The stack -/

/-- `StackPush` (20_memory.md R75). -/
theorem stackPush_apply (v : Word) (s : State) :
    stackPush v s =
      if (s.cfg.stackStart : Int) ≤ s.msp - 4 then
        match s.writeFault (s.msp - 4) 4 .system with
        | some f => .error f s
        | none => .ok () (s.storeBytes (s.msp - 4).toNat (bytesLe32 v)).pushed
      else .error (.stackOverflow s.msp) s := by
  rw [stackPush, theState_bind, require_bind]
  simp only [decide_eq_true_eq, Act.bind_apply, storeInt_apply]
  split
  · cases s.writeFault (s.msp - 4) 4 .system <;> rfl
  · rfl

/-- `StackPop` (20_memory.md R76). -/
theorem stackPop_apply (s : State) :
    stackPop s =
      if s.msp + 4 ≤ s.cfg.stackEnd then
        if s.cfg.debugStackTypes = true ∧ s.stackTypes.getLast? ≠ some .int then
          .error (.stackIntegrity s.msp) s
        else
          match s.memRead s.msp 4 .system false with
          | .ok bs => .ok (le32 bs) s.popped
          | .error f => .error f s
      else .error (.stackUnderflow s.msp) s := by
  rw [stackPop, theState_bind, require_bind]
  simp only [decide_eq_true_eq]
  split
  · rw [require_bind]
    simp only [Act.bind_apply, loadInt_apply]
    have hb : (!s.cfg.debugStackTypes || s.stackTypes.getLast? == some .int) =
        !decide (s.cfg.debugStackTypes = true ∧ s.stackTypes.getLast? ≠ some .int) := by
      by_cases hd : s.cfg.debugStackTypes = true <;>
        by_cases ht : s.stackTypes.getLast? = some .int <;> simp [hd, ht]
    rw [hb]
    by_cases h : s.cfg.debugStackTypes = true ∧ s.stackTypes.getLast? ≠ some .int
    · rw [if_pos h, decide_eq_true h]
      rfl
    · rw [if_neg h, decide_eq_false h]
      simp only [Bool.not_false, if_true]
      cases s.memRead s.msp 4 .system false <;> rfl
  · rfl

/-- `StackDropTo` (20_memory.md R81). -/
theorem stackDropTo_apply (a : Int) (s : State) :
    stackDropTo a s =
      if a < s.cfg.stackStart then .error (.stackOverflow a) s
      else if s.cfg.stackEnd < a ∨ (s.cfg.stackEnd - a) % 4 ≠ 0 then .error (.stackUnderflow a) s
      else if s.cfg.debugStackTypes = true ∧
          (dropCount s.msp a < 0 ∨ (s.stackTypes.length : Int) < dropCount s.msp a) then
        .error (.stackIntegrity s.msp) s
      else .ok () (s.droppedTo a) := by
  rw [stackDropTo, theState_bind, require_bind]
  simp only [decide_eq_true_eq]
  by_cases h1 : a < s.cfg.stackStart
  · rw [if_neg (by omega), if_pos h1]
  · rw [if_pos (by omega), if_neg h1, require_bind]
    simp only [Bool.and_eq_true, decide_eq_true_eq]
    by_cases h2 : s.cfg.stackEnd < a ∨ (s.cfg.stackEnd - a) % 4 ≠ 0
    · rw [if_neg (by omega), if_pos h2]
    · rw [if_pos (by omega), if_neg h2, require_bind]
      simp only [Bool.or_eq_true, Bool.and_eq_true, decide_eq_true_eq, Bool.not_eq_true',
        update_apply]
      by_cases h3 : s.cfg.debugStackTypes = true ∧
          (dropCount s.msp a < 0 ∨ (s.stackTypes.length : Int) < dropCount s.msp a)
      · rw [if_pos h3, if_neg (by simp only [h3.1, Bool.true_eq_false, false_or]; omega)]
      · rw [if_neg h3, if_pos]
        cases hd : s.cfg.debugStackTypes
        · exact .inl rfl
        · right
          simp only [hd, true_and] at h3
          omega

/-- The mirror of `msp` (10_state.md R32). -/
@[simp] theorem mirrorSp_apply (s : State) :
    mirrorSp s = .ok () (s.setReg .sp (wrap32 s.msp)) := by
  rw [mirrorSp, theState_bind, writeReg_system]

@[simp] theorem countFrame_apply (n : Int) (s : State) :
    countFrame n s = .ok () (s.counted n) := rfl

theorem pushCounted_apply (v : Word) (s : State) :
    pushCounted v s =
      match stackPush v s with
      | .ok _ s' => .ok () (s'.counted 4)
      | .error f s' => .error f s' := by
  simp only [pushCounted, Act.bind_apply]
  cases stackPush v s <;> rfl

/-- `CpuPush` (44_stack_and_call.md R220). -/
theorem cpuPush_apply (v : Word) (s : State) :
    cpuPush v s =
      match stackPush v s with
      | .ok _ s' => .ok () ((s'.counted 4).setReg .sp (wrap32 s'.msp))
      | .error f s' => .error f s' := by
  simp only [cpuPush, Act.bind_apply, pushCounted_apply, mirrorSp_apply]
  cases stackPush v s <;> rfl

/-- `CpuPop` (44_stack_and_call.md R221). -/
theorem cpuPop_apply (s : State) :
    cpuPop s =
      match stackPop s with
      | .ok v s' => .ok v ((s'.counted (-4)).setReg .sp (wrap32 s'.msp))
      | .error f s' => .error f s' := by
  simp only [cpuPop, Act.bind_apply]
  cases stackPop s <;> rfl

/-! ### Families -/

/-- A device call (45_system.md R253). -/
theorem deviceCall_apply (kind : DeviceKind) (key value : Word) (s : State) :
    deviceCall kind key value s =
      if (kind, key) ∈ s.cfg.deviceHandlers then
        .ok () (s.emitted ⟨kind, key, value⟩)
      else .error (.noDeviceHandler kind key) s := by
  rw [deviceCall, theState_bind, require_bind]
  simp only [decide_eq_true_eq, update_apply]

/-- `SetArith` never faults (42_arithmetic.md R181). -/
@[simp] theorem setArith_apply (w : Int) (s : State) :
    setArith w s =
      .ok () ((s.setReg .ac (wrap32 w)).setReg .fl
        (packFlags s.cfg.flLayout (s.reg .fl) (arithFlags w))) := by
  simp [setArith, writeReg_apply, isPrivileged]

theorem division_apply (f : Int → Int → Int) (n d : Word) (s : State) :
    division f n d s =
      if d = 0 then .error .divideByZero s
      else .ok () ((s.setReg .ac (wrap32 (f n.toInt d.toInt))).setReg .fl
        (packFlags s.cfg.flLayout (s.reg .fl) (arithFlags (f n.toInt d.toInt)))) := by
  rw [division, require_bind]
  by_cases h : d = 0
  · simp [h]
  · rw [if_neg h, if_pos (by simpa using h), arithmetic, setArith_apply]

/-- A jump's statements never fault (43_jumps.md R200). -/
theorem jumpIf_apply (rel : Relation) (o : Op) (v target : Word) (s : State) :
    jumpIf rel o v target s =
      .ok () (if relationHolds rel v (s.reg .ac) then
        s.setReg .ip (wrap32 (target.toInt + targetBias s.cfg o)) else s) := by
  rw [jumpIf, theState_bind]
  split
  · rw [writeReg_system]
  · rfl

theorem expressionAddress_apply (e : List Byte) (s : State) :
    expressionAddress e s =
      match evalExpression s.reg e with
      | some a => .ok a s
      | none => .error (.invalidExpression e) s := by
  simp only [expressionAddress, inspect_apply]
  cases evalExpression s.reg e <;> rfl

/-! ### One cycle -/

/-- A cycle always goes to a next state: the instruction completes or its fault is taken
(40_cycle.md R144; 60_exceptions.md R271). -/
theorem cycle_next (i : Instr) (body : Act Bool) (s : State) :
    (∃ q s', body (s.advance i) = .ok q s' ∧
      cycle i body s = .next (s'.retire (s.reg .ip).toInt q)) ∨
    (∃ f s', body (s.advance i) = .error f s' ∧
      cycle i body s = .next (s'.takeFault (s.reg .ip).toInt f)) := by
  unfold cycle
  cases h : body (s.advance i) with
  | ok q s' => exact .inl ⟨q, s', rfl, rfl⟩
  | error f s' => exact .inr ⟨f, s', rfl, rfl⟩

/-- A cycle whose statements complete. -/
theorem cycle_of_ok {i : Instr} {body : Act Bool} {s s' : State} {q : Bool}
    (h : body (s.advance i) = .ok q s') :
    cycle i body s = .next (s'.retire (s.reg .ip).toInt q) := by
  unfold cycle
  rw [h]

/-- A cycle whose statements raise. -/
theorem cycle_of_error {i : Instr} {body : Act Bool} {s s' : State} {f : Fault}
    (h : body (s.advance i) = .error f s') :
    cycle i body s = .next (s'.takeFault (s.reg .ip).toInt f) := by
  unfold cycle
  rw [h]

end Sys2Proof.Machine
end

