-- ==== Sys2Proof/Laws/PerInstr.lean ====
section
/-! SUPPORT. Facts about each instruction as syntax, one lemma per constructor. -/

namespace Sys2Proof.Laws

/-- An instruction is rebuilt from its name and its arguments (40_cycle.md R143: decoding ends with
the decoded values of the opcode's format). -/
def Rebuild.Statement (i : Instr) : Prop := i.op.build i.vals = i

/-- The reference opcode of an instruction names it (30_encoding.md R111). -/
def OpcodeNames.Statement (i : Instr) : Prop :=
  Config.reference.opOf (Config.reference.opcode i.op) = some i.op

theorem Rebuild.movLitReg (lit : Word) (r : Reg) :
    Rebuild.Statement (.movLitReg lit r) := rfl

theorem Rebuild.movRegReg (ra : Reg) (rb : Reg) :
    Rebuild.Statement (.movRegReg ra rb) := rfl

theorem Rebuild.movLitMem (lit : Word) (ptr : Word) :
    Rebuild.Statement (.movLitMem lit ptr) := rfl

theorem Rebuild.movRegMem (r : Reg) (ptr : Word) :
    Rebuild.Statement (.movRegMem r ptr) := rfl

theorem Rebuild.movMemReg (ptr : Word) (r : Reg) :
    Rebuild.Statement (.movMemReg ptr r) := rfl

theorem Rebuild.movRegPtrReg (rp : Reg) (r : Reg) :
    Rebuild.Statement (.movRegPtrReg rp r) := rfl

theorem Rebuild.movLitExpMemReg (e : List Byte) (r : Reg) :
    Rebuild.Statement (.movLitExpMemReg e r) := rfl

theorem Rebuild.addLitReg (lit : Word) (r : Reg) :
    Rebuild.Statement (.addLitReg lit r) := rfl

theorem Rebuild.addRegReg (ra : Reg) (rb : Reg) :
    Rebuild.Statement (.addRegReg ra rb) := rfl

theorem Rebuild.subLitReg (lit : Word) (r : Reg) :
    Rebuild.Statement (.subLitReg lit r) := rfl

theorem Rebuild.subRegReg (ra : Reg) (rb : Reg) :
    Rebuild.Statement (.subRegReg ra rb) := rfl

theorem Rebuild.mulLitReg (lit : Word) (r : Reg) :
    Rebuild.Statement (.mulLitReg lit r) := rfl

theorem Rebuild.mulRegReg (ra : Reg) (rb : Reg) :
    Rebuild.Statement (.mulRegReg ra rb) := rfl

theorem Rebuild.divLitReg (lit : Word) (r : Reg) :
    Rebuild.Statement (.divLitReg lit r) := rfl

theorem Rebuild.divRegReg (ra : Reg) (rb : Reg) :
    Rebuild.Statement (.divRegReg ra rb) := rfl

theorem Rebuild.modLitReg (lit : Word) (r : Reg) :
    Rebuild.Statement (.modLitReg lit r) := rfl

theorem Rebuild.modRegReg (ra : Reg) (rb : Reg) :
    Rebuild.Statement (.modRegReg ra rb) := rfl

theorem Rebuild.jmpNotEq (lit : Word) (ptr : Word) :
    Rebuild.Statement (.jmpNotEq lit ptr) := rfl

theorem Rebuild.jneReg (r : Reg) (ptr : Word) :
    Rebuild.Statement (.jneReg r ptr) := rfl

theorem Rebuild.jeqLit (lit : Word) (ptr : Word) :
    Rebuild.Statement (.jeqLit lit ptr) := rfl

theorem Rebuild.jeqReg (r : Reg) (ptr : Word) :
    Rebuild.Statement (.jeqReg r ptr) := rfl

theorem Rebuild.jltLit (lit : Word) (ptr : Word) :
    Rebuild.Statement (.jltLit lit ptr) := rfl

theorem Rebuild.jltReg (r : Reg) (ptr : Word) :
    Rebuild.Statement (.jltReg r ptr) := rfl

theorem Rebuild.jgtLit (lit : Word) (ptr : Word) :
    Rebuild.Statement (.jgtLit lit ptr) := rfl

theorem Rebuild.jgtReg (r : Reg) (ptr : Word) :
    Rebuild.Statement (.jgtReg r ptr) := rfl

theorem Rebuild.jleLit (lit : Word) (ptr : Word) :
    Rebuild.Statement (.jleLit lit ptr) := rfl

theorem Rebuild.jleReg (r : Reg) (ptr : Word) :
    Rebuild.Statement (.jleReg r ptr) := rfl

theorem Rebuild.jgeLit (lit : Word) (ptr : Word) :
    Rebuild.Statement (.jgeLit lit ptr) := rfl

theorem Rebuild.jgeReg (r : Reg) (ptr : Word) :
    Rebuild.Statement (.jgeReg r ptr) := rfl

theorem Rebuild.pushLit (lit : Word) :
    Rebuild.Statement (.pushLit lit) := rfl

theorem Rebuild.pushReg (r : Reg) :
    Rebuild.Statement (.pushReg r) := rfl

theorem Rebuild.popReg (r : Reg) :
    Rebuild.Statement (.popReg r) := rfl

theorem Rebuild.swap :
    Rebuild.Statement .swap := rfl

theorem Rebuild.callLit (ptr : Word) :
    Rebuild.Statement (.callLit ptr) := rfl

theorem Rebuild.ret :
    Rebuild.Statement .ret := rfl

theorem Rebuild.hlt :
    Rebuild.Statement .hlt := rfl

theorem Rebuild.outRegLit (r : Reg) (lit : Word) :
    Rebuild.Statement (.outRegLit r lit) := rfl

theorem Rebuild.intLit (lit : Word) :
    Rebuild.Statement (.intLit lit) := rfl

theorem OpcodeNames.movLitReg (lit : Word) (r : Reg) :
    OpcodeNames.Statement (.movLitReg lit r) := Config.opOf_opcode reference_encodingLegal _

theorem OpcodeNames.movRegReg (ra : Reg) (rb : Reg) :
    OpcodeNames.Statement (.movRegReg ra rb) := Config.opOf_opcode reference_encodingLegal _

theorem OpcodeNames.movLitMem (lit : Word) (ptr : Word) :
    OpcodeNames.Statement (.movLitMem lit ptr) := Config.opOf_opcode reference_encodingLegal _

theorem OpcodeNames.movRegMem (r : Reg) (ptr : Word) :
    OpcodeNames.Statement (.movRegMem r ptr) := Config.opOf_opcode reference_encodingLegal _

theorem OpcodeNames.movMemReg (ptr : Word) (r : Reg) :
    OpcodeNames.Statement (.movMemReg ptr r) := Config.opOf_opcode reference_encodingLegal _

theorem OpcodeNames.movRegPtrReg (rp : Reg) (r : Reg) :
    OpcodeNames.Statement (.movRegPtrReg rp r) := Config.opOf_opcode reference_encodingLegal _

theorem OpcodeNames.movLitExpMemReg (e : List Byte) (r : Reg) :
    OpcodeNames.Statement (.movLitExpMemReg e r) := Config.opOf_opcode reference_encodingLegal _

theorem OpcodeNames.addLitReg (lit : Word) (r : Reg) :
    OpcodeNames.Statement (.addLitReg lit r) := Config.opOf_opcode reference_encodingLegal _

theorem OpcodeNames.addRegReg (ra : Reg) (rb : Reg) :
    OpcodeNames.Statement (.addRegReg ra rb) := Config.opOf_opcode reference_encodingLegal _

theorem OpcodeNames.subLitReg (lit : Word) (r : Reg) :
    OpcodeNames.Statement (.subLitReg lit r) := Config.opOf_opcode reference_encodingLegal _

theorem OpcodeNames.subRegReg (ra : Reg) (rb : Reg) :
    OpcodeNames.Statement (.subRegReg ra rb) := Config.opOf_opcode reference_encodingLegal _

theorem OpcodeNames.mulLitReg (lit : Word) (r : Reg) :
    OpcodeNames.Statement (.mulLitReg lit r) := Config.opOf_opcode reference_encodingLegal _

theorem OpcodeNames.mulRegReg (ra : Reg) (rb : Reg) :
    OpcodeNames.Statement (.mulRegReg ra rb) := Config.opOf_opcode reference_encodingLegal _

theorem OpcodeNames.divLitReg (lit : Word) (r : Reg) :
    OpcodeNames.Statement (.divLitReg lit r) := Config.opOf_opcode reference_encodingLegal _

theorem OpcodeNames.divRegReg (ra : Reg) (rb : Reg) :
    OpcodeNames.Statement (.divRegReg ra rb) := Config.opOf_opcode reference_encodingLegal _

theorem OpcodeNames.modLitReg (lit : Word) (r : Reg) :
    OpcodeNames.Statement (.modLitReg lit r) := Config.opOf_opcode reference_encodingLegal _

theorem OpcodeNames.modRegReg (ra : Reg) (rb : Reg) :
    OpcodeNames.Statement (.modRegReg ra rb) := Config.opOf_opcode reference_encodingLegal _

theorem OpcodeNames.jmpNotEq (lit : Word) (ptr : Word) :
    OpcodeNames.Statement (.jmpNotEq lit ptr) := Config.opOf_opcode reference_encodingLegal _

theorem OpcodeNames.jneReg (r : Reg) (ptr : Word) :
    OpcodeNames.Statement (.jneReg r ptr) := Config.opOf_opcode reference_encodingLegal _

theorem OpcodeNames.jeqLit (lit : Word) (ptr : Word) :
    OpcodeNames.Statement (.jeqLit lit ptr) := Config.opOf_opcode reference_encodingLegal _

theorem OpcodeNames.jeqReg (r : Reg) (ptr : Word) :
    OpcodeNames.Statement (.jeqReg r ptr) := Config.opOf_opcode reference_encodingLegal _

theorem OpcodeNames.jltLit (lit : Word) (ptr : Word) :
    OpcodeNames.Statement (.jltLit lit ptr) := Config.opOf_opcode reference_encodingLegal _

theorem OpcodeNames.jltReg (r : Reg) (ptr : Word) :
    OpcodeNames.Statement (.jltReg r ptr) := Config.opOf_opcode reference_encodingLegal _

theorem OpcodeNames.jgtLit (lit : Word) (ptr : Word) :
    OpcodeNames.Statement (.jgtLit lit ptr) := Config.opOf_opcode reference_encodingLegal _

theorem OpcodeNames.jgtReg (r : Reg) (ptr : Word) :
    OpcodeNames.Statement (.jgtReg r ptr) := Config.opOf_opcode reference_encodingLegal _

theorem OpcodeNames.jleLit (lit : Word) (ptr : Word) :
    OpcodeNames.Statement (.jleLit lit ptr) := Config.opOf_opcode reference_encodingLegal _

theorem OpcodeNames.jleReg (r : Reg) (ptr : Word) :
    OpcodeNames.Statement (.jleReg r ptr) := Config.opOf_opcode reference_encodingLegal _

theorem OpcodeNames.jgeLit (lit : Word) (ptr : Word) :
    OpcodeNames.Statement (.jgeLit lit ptr) := Config.opOf_opcode reference_encodingLegal _

theorem OpcodeNames.jgeReg (r : Reg) (ptr : Word) :
    OpcodeNames.Statement (.jgeReg r ptr) := Config.opOf_opcode reference_encodingLegal _

theorem OpcodeNames.pushLit (lit : Word) :
    OpcodeNames.Statement (.pushLit lit) := Config.opOf_opcode reference_encodingLegal _

theorem OpcodeNames.pushReg (r : Reg) :
    OpcodeNames.Statement (.pushReg r) := Config.opOf_opcode reference_encodingLegal _

theorem OpcodeNames.popReg (r : Reg) :
    OpcodeNames.Statement (.popReg r) := Config.opOf_opcode reference_encodingLegal _

theorem OpcodeNames.swap :
    OpcodeNames.Statement .swap := Config.opOf_opcode reference_encodingLegal _

theorem OpcodeNames.callLit (ptr : Word) :
    OpcodeNames.Statement (.callLit ptr) := Config.opOf_opcode reference_encodingLegal _

theorem OpcodeNames.ret :
    OpcodeNames.Statement .ret := Config.opOf_opcode reference_encodingLegal _

theorem OpcodeNames.hlt :
    OpcodeNames.Statement .hlt := Config.opOf_opcode reference_encodingLegal _

theorem OpcodeNames.outRegLit (r : Reg) (lit : Word) :
    OpcodeNames.Statement (.outRegLit r lit) := Config.opOf_opcode reference_encodingLegal _

theorem OpcodeNames.intLit (lit : Word) :
    OpcodeNames.Statement (.intLit lit) := Config.opOf_opcode reference_encodingLegal _

end Sys2Proof.Laws
end

