-- ==== Sys2Proof/Tests/Slice0.lean ====
section
/-! SUPPORT. Tests: words written out from the spec's encodings, one step on small states with the
results the spec's own examples and vectors give (95_test_vectors.md), and for each statement with
hypotheses a state and operands that meet them. -/

namespace Sys2Proof.Tests

open Sys2Proof Sys2Proof.Machine

/-! ### Well-formedness -/

/-- A text one byte too long for a signed 32-bit length has no encoding (30_encoding.md R107). -/
theorem test_wellFormed_refuses_a_text_too_long :
    (Instr.movLitExpMemReg (List.replicate 2147483648 0x30) .r1).wellFormed = false := by
  simp only [Instr.wellFormed, textLengthOk, List.length_replicate]
  decide

/-- The longest text is well formed. -/
theorem test_wellFormed_admits_the_longest_text :
    (Instr.movLitExpMemReg (List.replicate 2147483647 0x30) .r1).wellFormed = true := by
  simp only [Instr.wellFormed, textLengthOk, List.length_replicate]
  decide

/-! ### Decoding: every constructor, its bytes from 30_encoding.md R110, R111 and the examples of the
instruction rules -/

/-- 41_data_movement.md R161-R167. -/
theorem test_decode_data_movement :
    decode [0x10, 0, 0, 0, 2, 0, 0, 0, 0] = .ok (.movLitReg 2 .r1, []) ∧
    decode [0x11, 0, 0, 0, 0, 1] = .ok (.movRegReg .r1 .r2, []) ∧
    decode [0x12, 0, 0, 0, 7, 0, 0, 0, 0x10, 0, 0, 0] = .ok (.movLitMem 7 0x10, []) ∧
    decode [0x13, 0, 0, 0, 0, 0x20, 0, 0, 0] = .ok (.movRegMem .r1 0x20, []) ∧
    decode [0x14, 0, 0, 0, 0x20, 0, 0, 0, 2] = .ok (.movMemReg 0x20 .r3, []) ∧
    decode [0x15, 0, 0, 0, 0, 1] = .ok (.movRegPtrReg .r1 .r2, []) ∧
    decode [0x16, 0, 0, 0, 6, 0, 0, 0, 0x52, 0x31, 0x20, 0x2B, 0x20, 0x34, 1] =
      .ok (.movLitExpMemReg [0x52, 0x31, 0x20, 0x2B, 0x20, 0x34] .r2, []) := by
  decide

/-- 42_arithmetic.md R182-R192. -/
theorem test_decode_arithmetic :
    decode [0x20, 0, 0, 0, 1, 0, 0, 0, 0] = .ok (.addLitReg 1 .r1, []) ∧
    decode [0x21, 0, 0, 0, 0, 1] = .ok (.addRegReg .r1 .r2, []) ∧
    decode [0x22, 0, 0, 0, 3, 0, 0, 0, 0] = .ok (.subLitReg 3 .r1, []) ∧
    decode [0x23, 0, 0, 0, 0, 1] = .ok (.subRegReg .r1 .r2, []) ∧
    decode [0x24, 0, 0, 0, 7, 0, 0, 0, 0] = .ok (.mulLitReg 7 .r1, []) ∧
    decode [0x25, 0, 0, 0, 0, 1] = .ok (.mulRegReg .r1 .r2, []) ∧
    decode [0x26, 0, 0, 0, 2, 0, 0, 0, 0] = .ok (.divLitReg 2 .r1, []) ∧
    decode [0x27, 0, 0, 0, 0, 1] = .ok (.divRegReg .r1 .r2, []) ∧
    decode [0x28, 0, 0, 0, 3, 0, 0, 0, 0] = .ok (.modLitReg 3 .r1, []) ∧
    decode [0x29, 0, 0, 0, 0, 1] = .ok (.modRegReg .r1 .r2, []) := by
  decide

/-- 43_jumps.md R201-R207. -/
theorem test_decode_jumps :
    decode [0x30, 0, 0, 0, 1, 0, 0, 0, 0, 0x10, 0, 0] = .ok (.jmpNotEq 1 0x1000, []) ∧
    decode [0x31, 0, 0, 0, 0, 0, 0x10, 0, 0] = .ok (.jneReg .r1 0x1000, []) ∧
    decode [0x32, 0, 0, 0, 1, 0, 0, 0, 0, 0x10, 0, 0] = .ok (.jeqLit 1 0x1000, []) ∧
    decode [0x33, 0, 0, 0, 8, 0, 0x10, 0, 0] = .ok (.jeqReg .ac 0x1000, []) ∧
    decode [0x34, 0, 0, 0, 1, 0, 0, 0, 0, 0x10, 0, 0] = .ok (.jltLit 1 0x1000, []) ∧
    decode [0x35, 0, 0, 0, 1, 0, 0x10, 0, 0] = .ok (.jltReg .r2 0x1000, []) := by
  decide

/-- 43_jumps.md R208-R213. -/
theorem test_decode_ordered_jumps :
    decode [0x36, 0, 0, 0, 0xFF, 0xFF, 0xFF, 0xFF, 0, 0x10, 0, 0] = .ok (.jgtLit (-1) 0x1000, []) ∧
    decode [0x37, 0, 0, 0, 0, 9, 0x10, 0, 0] = .ok (.jgtReg .r1 0x1009, []) ∧
    decode [0x38, 0, 0, 0, 1, 0, 0, 0, 0, 0x10, 0, 0] = .ok (.jleLit 1 0x1000, []) ∧
    decode [0x39, 0, 0, 0, 3, 0, 0x10, 0, 0] = .ok (.jleReg .r4 0x1000, []) ∧
    decode [0x3A, 0, 0, 0, 1, 0, 0, 0, 0, 0x10, 0, 0] = .ok (.jgeLit 1 0x1000, []) ∧
    decode [0x3B, 0, 0, 0, 4, 0, 0x10, 0, 0] = .ok (.jgeReg .r5 0x1000, []) := by
  decide

/-- 44_stack_and_call.md R224-R229. -/
theorem test_decode_stack_and_call :
    decode [0x40, 0, 0, 0, 5, 0, 0, 0] = .ok (.pushLit 5, []) ∧
    decode [0x41, 0, 0, 0, 0] = .ok (.pushReg .r1, []) ∧
    decode [0x42, 0, 0, 0, 1] = .ok (.popReg .r2, []) ∧
    decode [0x43, 0, 0, 0] = .ok (.swap, []) ∧
    decode [0x44, 0, 0, 0, 0x40, 0x10, 0, 0] = .ok (.callLit 0x1040, []) ∧
    decode [0x45, 0, 0, 0] = .ok (.ret, []) := by
  decide

/-- 45_system.md R250-R252. -/
theorem test_decode_system :
    decode [0x50, 0, 0, 0] = .ok (.hlt, []) ∧
    decode [0x51, 0, 0, 0, 0, 0, 0, 0, 0] = .ok (.outRegLit .r1 0, []) ∧
    decode [0x52, 0, 0, 0, 1, 0, 0, 0] = .ok (.intLit 1, []) := by
  decide

/-- Illegal encodings: an unknown opcode, a byte that names no register, a negative length
(95_test_vectors.md X7, X8, X13). -/
theorem test_decode_refuses :
    decode [0x53, 0, 0, 0] = .error (.illegal (.unknownOpcode 0x53)) ∧
    decode [0x10, 0, 0, 0, 1, 0, 0, 0, 0x10] = .error (.illegal (.badRegister 0x10)) ∧
    decode [0x16, 0, 0, 0, 0xFF, 0xFF, 0xFF, 0xFF, 0] = .error (.illegal (.badLength (-1))) := by
  decide

/-- The assembly forms of the spec's examples (30_encoding.md R116-R120; 95_test_vectors.md E1, E3). -/
theorem test_literals :
    literalInteger [0x24, 0x30, 0x62, 0x31, 0x30] = some 2 ∧
    literalInteger [0x24, 0x2D, 0x30, 0x31] = some (-1) ∧
    literalInteger [0x24, 0x30, 0x31, 0x30] = some 8 ∧
    literalInteger [0x24, 0x30, 0x62, 0x39] = none ∧
    literalPointer [0x26, 0x24, 0x2D, 0x30] = none := by
  decide

/-- A text of a source. -/
def txt (cs : List Char) : List Nat := codePoints cs

/-- Each sigil, and a bare word as a register, a size hint and an identifier (30_encoding.md R116). -/
theorem test_operands :
    let c := { Config.reference with sizeHintMap := [("w", 2)] }
    [['$', '-', '1'], ['&', '$', '8'], ['r', '1'], ['&', 'A', 'C'], ['&', '[', 'F', 'P', ']'],
      ['[', '#', ']'], ['@', 'l'], ['!', 'l'], ['w'], ['l']].map (fun cs => parseOperand c (txt cs)) =
      [.ok (.lit (-1)), .ok (.ptr 8), .ok (.reg .r1), .ok (.regPtr .ac), .ok (.expr [0x46, 0x50]),
       .ok (.static [0x23]), .ok (.ref [0x6C]), .ok (.ref [0x6C]), .ok (.sizeHint 2),
       .ok (.ident [0x6C])] := by
  decide

/-- Program P2's loop in small: `mov $5, R1`, the label `l`, `jgt R1, @l`, `jmp @e`, `hlt`, the
subroutine `e`, with `l` backward and `e` forward (95_test_vectors.md E8, P2; 30_encoding.md R115,
R120). -/
def loopSource : List (List (List Nat)) :=
  [[txt ['m', 'o', 'v'], txt ['$', '5'], txt ['R', '1']], [txt ['L', 'A', 'B', 'E', 'L'], txt ['l']],
   [txt ['j', 'g', 't'], txt ['R', '1'], txt ['@', 'l']], [txt ['j', 'm', 'p'], txt ['@', 'e']],
   [txt ['h', 'l', 't']], [txt ['e', ':']]]

/-- A line of program P2, `loop: add $1, R3`, and a reference to it (95_test_vectors.md P2). -/
theorem test_marker_before_an_instruction :
    (assembleProgram Config.reference
      [[txt ['l', 'o', 'o', 'p', ':'], txt ['a', 'd', 'd'], txt ['$', '1'], txt ['R', '3']],
       [txt ['j', 'g', 't'], txt ['R', '1'], txt ['@', 'l', 'o', 'o', 'p']]]).toOption =
      some ⟨[0x20, 0, 0, 0, 1, 0, 0, 0, 2, 0x37, 0, 0, 0, 0, 0, 0x10, 0, 0], []⟩ := by
  decide

theorem test_labels :
    (assembleProgram Config.reference loopSource).toOption =
      some
        ⟨[0x10, 0, 0, 0, 5, 0, 0, 0, 0, 0x37, 0, 0, 0, 0, 9, 0x10, 0, 0,
          0x33, 0, 0, 0, 8, 0x1F, 0x10, 0, 0, 0x50, 0, 0, 0], []⟩ := by
  decide

/-- The configuration is an argument: `push @l` relocated against 0x2000, under another opcode
(00_scope.md R7). -/
theorem test_assembly_config :
    (assembleProgram { Config.reference with initialLoadAddress := 0x2000, opcodeMap := [(.pushLit, 7)] }
      [[txt ['l', ':']], [txt ['p', 'u', 's', 'h'], txt ['@', 'l']]]).toOption =
      some ⟨[7, 0, 0, 0, 0, 0x20, 0, 0], []⟩ := by
  decide

/-- A blob listed first lies after the code: `d:`, `TIMES 2 DB "é", $1`, `EQU n # + 1`,
`push @d`, `push [n + 1]` (30_encoding.md R114, R121). The position `#` is that of the code after it. -/
theorem test_data_section :
    (assembleProgram Config.reference
      [[txt ['d', ':']],
       [txt ['T', 'I', 'M', 'E', 'S'], txt ['2'], txt ['D', 'B'], txt ['"', 'é', '"'], txt ['$', '1']],
       [txt ['E', 'Q', 'U'], txt ['n'], txt ['#', ' ', '+', ' ', '1']],
       [txt ['p', 'u', 's', 'h'], txt ['@', 'd']],
       [txt ['p', 'u', 's', 'h'], txt ['[', 'n', '+', '1', ']']]]).toOption =
      some
        ⟨[0x40, 0, 0, 0, 0x10, 0x10, 0, 0, 0x40, 0, 0, 0, 62, 0, 0, 0],
         [0xC3, 0xA9, 1, 0xC3, 0xA9, 1]⟩ := by
  decide

/-- The error of a source, or none. -/
def assemblyError (source : List (List (List Nat))) : Option AsmError :=
  match assembleProgram Config.reference source with
  | .error e => some e
  | .ok _ => none

/-- A negative value never becomes a pointer (30_encoding.md R102): `EQU n -8`, then `call @n`, beside
`push @n`, which a LiteralInteger can hold. -/
theorem test_negative_pointer :
    let equ := [txt ['E', 'Q', 'U'], txt ['n'], txt ['-', '8']]
    assemblyError [equ, [txt ['c', 'a', 'l', 'l'], txt ['@', 'n']]] = some .invalidInteger ∧
      assemblyError [equ, [txt ['p', 'u', 's', 'h'], txt ['@', 'n']]] = none := by
  decide

/-- The errors of an operand, a reference and a signature (30_encoding.md R122). -/
theorem test_operand_errors :
    let mov := txt ['m', 'o', 'v']
    assemblyError [[mov, txt ['&', '[', 'R', '1', ']', ']'], txt ['R', '1']]] =
        some .mismatchedBrackets ∧
      assemblyError [[mov, txt ['$', '0', 'b', '9'], txt ['R', '1']]] = some .invalidInteger ∧
      assemblyError [[mov, txt ['$', '1'], txt ['&', 'R', '9']]] = some .invalidRegister ∧
      assemblyError [[mov, txt ['$', '1'], txt ['$', '1']]] = some .noSignature ∧
      assemblyError [[txt ['p', 'o', 'p'], txt ['@', 'l']]] = some .nonBindable ∧
      assemblyError [[txt ['c', 'a', 'l', 'l'], txt ['!', 'l']]] = some .unresolvedReference := by
  decide

/-- The errors of a line (30_encoding.md R122). -/
theorem test_line_errors :
    let db := txt ['D', 'B']
    let times := txt ['T', 'I', 'M', 'E', 'S']
    assemblyError [[txt [':']]] = some .invalidLabel ∧
      assemblyError [[txt ['l', ':']], [txt ['l', ':']]] = some .duplicateLabel ∧
      assemblyError [[db, txt ['"', 'a']]] = some .mismatchedString ∧
      assemblyError [[db, txt ['R', '1']]] = some .invalidDirective ∧
      assemblyError [[times, txt ['2'], times, txt ['2'], db, txt ['$', '1']]] = some .nestedTimes ∧
      assemblyError [[times, txt ['-', '1'], db, txt ['$', '1']]] = some .invalidDirective := by
  decide

/-- Two labels bound to one instruction, as in `mov @a, @b`, are an error of the quick parser alone; two
destinations before one instruction are none (30_encoding.md R122; 90_conflicts.md C7). -/
theorem test_quick_limit :
    let a := [txt ['a', ':']]
    let b := [txt ['b', ':']]
    let two := [a, b, [txt ['m', 'o', 'v'], txt ['@', 'a'], txt ['@', 'b']]]
    let one := [a, b, [txt ['p', 'u', 's', 'h'], txt ['@', 'a']]]
    (match assembleQuick Config.reference two with
      | .error e => some e
      | .ok _ => none) = some .multipleLabels ∧
      assemblyError two = none ∧ (assembleQuick Config.reference one).isOk = true := by
  decide

/-- A container of four bytes of code and one of data: its table lies at offset 65, its code at 60, and
the image is read back (30_encoding.md R114). -/
theorem test_container :
    let f : ContainerFormat := ⟨0x1234, 1, 2, 3⟩
    let i : MetaSection := ⟨Vector.replicate 16 9, Vector.replicate 4 1, Vector.replicate 4 2⟩
    let bs := containerBytes Config.reference f i ⟨[0x50, 0, 0, 0], [7]⟩
    bs.take 12 = [0x34, 0x12, 0, 0, 65, 0, 0, 0, 0, 0x10, 0, 0] ∧
      (bs.drop 60).take 9 = [0x50, 0, 0, 0, 7, 3, 0, 0, 0] ∧
      (readContainer f bs).map Assembled.image = some [0x50, 0, 0, 0, 7] ∧
      readContainer f bs.dropLast = none := by
  decide

/-! ### One step on a small state -/

/-- The conventions of 95_test_vectors.md: the bytes at 0x1000, `hlt` after them, the reset state. -/
def code (bytes : List Byte) : State := State.reset.loadAndEnter (bytes ++ [0x50, 0, 0, 0])

/-- The state after one step. -/
def stepped (s : State) : State :=
  match step s with
  | .next t => t
  | .fault _ => s
  | .refused _ => s

/-- A word stored in memory. -/
def stored (s : State) (a : Nat) (v : Word) : State := s.storeBytes a (bytesLe32 v)

/-- A state with `msp` and the counter at some values, as after pushes. -/
def stackAt (s : State) (msp : Int) (fsz : Word) : State := { s with msp := msp, fsz := fsz }

/-- A state whose configuration has the debug check of markers. -/
def debugged (s : State) (n : Nat) : State :=
  { s with cfg := { s.cfg with debugStackTypes := true }, stackTypes := List.replicate n .int }

/-- A state whose configuration has some device handlers. -/
def handled (s : State) (keys : List (DeviceKind × Word)) : State :=
  { s with cfg := { s.cfg with deviceHandlers := keys } }

/-- DM1 and R161. -/
theorem test_movLitReg :
    (stepped (code [0x10, 0, 0, 0, 0xFF, 0xFF, 0xFF, 0xFF, 0x0E])).reg .test = -1 := by
  decide

/-- DM2. -/
theorem test_movLitReg_privileged :
    (stepped (code [0x10, 0, 0, 0, 5, 0, 0, 0, 9])).fault = some ⟨.invalidRegister .ip, 0x1000⟩ := by
  decide

/-- DM4: IP reads as the next instruction's address. -/
theorem test_movRegReg_reads_ip :
    (stepped (code [0x11, 0, 0, 0, 9, 0])).reg .r1 = 0x1006 := by decide

/-- DM6: little-endian, up to the region's last byte. -/
theorem test_movLitMem :
    (stepped (code [0x12, 0, 0, 0, 0x78, 0x56, 0x34, 0x12, 0xFC, 7, 0, 0])).mem.readBytes 0x7FC 4 =
      [0x78, 0x56, 0x34, 0x12] := by
  decide

/-- DM7: one byte further the access runs past the region. -/
theorem test_movLitMem_straddles :
    (stepped (code [0x12, 0, 0, 0, 1, 0, 0, 0, 0xFD, 7, 0, 0])).fault =
      some ⟨.memoryAccessViolation 0x7FD .write .user, 0x1000⟩ := by
  decide

/-- R164's example. -/
theorem test_movRegMem :
    (stepped ((code [0x13, 0, 0, 0, 0, 0x20, 0, 0, 0]).setReg .r1 (-1))).mem.readBytes 0x20 4 =
      [0xFF, 0xFF, 0xFF, 0xFF] := by
  decide

/-- DM13: a User read of the stack. -/
theorem test_movMemReg :
    (stepped (stored (code [0x14, 0, 0, 0, 0xFC, 0x0F, 0, 0, 0]) 0xFFC 42)).reg .r1 = 42 := by
  decide

/-- DM16: the memory fault comes before the destination's. -/
theorem test_movMemReg_order :
    (stepped (code [0x14, 0, 0, 0, 0, 8, 0, 0, 9])).fault =
      some ⟨.memoryAccessViolation 0x800 .read .user, 0x1000⟩ := by
  decide

/-- DM18: the pointer is also the destination. -/
theorem test_movRegPtrReg :
    (stepped (stored ((code [0x15, 0, 0, 0, 0, 0]).setReg .r1 0x20) 0x20 (-7))).reg .r1 = -7 := by
  decide

/-- DM24: a name in lower case, an octal numeral. -/
theorem test_movLitExpMemReg :
    (stepped (stored ((code [0x16, 0, 0, 0, 8, 0, 0, 0, 0x72, 0x31, 0x20, 0x2B, 0x20, 0x30, 0x31,
      0x30, 1]).setReg .r1 0x18) 0x20 5)).reg .r2 = 5 := by
  decide

/-- DM25: the sum is not wrapped. -/
theorem test_movLitExpMemReg_no_wrap :
    (stepped ((code [0x16, 0, 0, 0, 7, 0, 0, 0, 0x52, 0x31, 0x20, 0x2B, 0x20, 0x52, 0x31,
      1]).setReg .r1 0x7FFFFFFF)).fault = some ⟨.memoryOutOfRange 4294967294, 0x1000⟩ := by
  decide

/-- AC and FL after a step with R1 and R2 set. -/
def arith (bytes : List Byte) (r1 r2 : Word) : Word × Word :=
  let t := stepped (((code bytes).setReg .r1 r1).setReg .r2 r2)
  (t.reg .ac, t.reg .fl)

/-- AR1: the source's overflow example. -/
theorem test_addLitReg : arith [0x20, 0, 0, 0, 1, 0, 0, 0, 0] 2147483647 0 = (-2147483648, 5) := by
  decide

/-- AR5: INT_MIN doubled. -/
theorem test_addRegReg : arith [0x21, 0, 0, 0, 0, 0] (-2147483648) 0 = (0, 6) := by decide

/-- AR7. -/
theorem test_subLitReg : arith [0x22, 0, 0, 0, 1, 0, 0, 0, 0] (-2147483648) 0 = (2147483647, 4) := by
  decide

/-- AR10: the first register named is subtracted. -/
theorem test_subRegReg : arith [0x23, 0, 0, 0, 0, 1] 5 3 = (-2, 1) := by decide

/-- AR12: Z from the truncated result. -/
theorem test_mulLitReg : arith [0x24, 0, 0, 0, 0, 0, 1, 0, 0] 0x10000 0 = (0, 6) := by
  decide

/-- AR15. -/
theorem test_mulRegReg : arith [0x25, 0, 0, 0, 0, 0] 46341 0 = (-2147479015, 5) := by
  decide

/-- AR17: truncation toward zero. -/
theorem test_divLitReg : arith [0x26, 0, 0, 0, 2, 0, 0, 0, 0] (-7) 0 = (-3, 1) := by decide

/-- AR20: INT_MIN by -1 does not trap. -/
theorem test_divLitReg_overflow :
    arith [0x26, 0, 0, 0, 0xFF, 0xFF, 0xFF, 0xFF, 0] (-2147483648) 0 = (-2147483648, 5) := by
  decide

/-- AR23: the first register named is the divisor. -/
theorem test_divRegReg : arith [0x27, 0, 0, 0, 0, 1] 2 9 = (4, 0) := by decide

/-- AR25: the sign of the dividend. -/
theorem test_modLitReg : arith [0x28, 0, 0, 0, 3, 0, 0, 0, 0] (-7) 0 = (-1, 1) := by decide

/-- AR29. -/
theorem test_modRegReg : arith [0x29, 0, 0, 0, 0, 1] 4 10 = (2, 0) := by decide

/-- AR30: 0 mod 0 faults. -/
theorem test_modRegReg_by_zero :
    (stepped (code [0x29, 0, 0, 0, 0, 0])).fault = some ⟨.divideByZero, 0x1000⟩ := by decide

/-- IP after a jump to 0x1000 with AC = 5 and the literal, or R1, at 3, 5 and 7
(95_test_vectors.md section 4). -/
def jumpsTo (op : Byte) (literal : Bool) : List Word :=
  [3, 5, 7].map fun v =>
    let operand : List Byte := if literal then [v, 0, 0, 0] else [0]
    (stepped (((code ([op, 0, 0, 0] ++ operand ++ [0, 0x10, 0, 0])).setReg .ac 5).setReg .r1
      (v.setWidth 32))).reg .ip

theorem test_jmpNotEq : jumpsTo 0x30 true = [0x1000, 0x100C, 0x1000] := by decide
theorem test_jneReg : jumpsTo 0x31 false = [0x1000, 0x1009, 0x1000] := by decide
theorem test_jeqLit : jumpsTo 0x32 true = [0x100C, 0x1000, 0x100C] := by decide
theorem test_jeqReg : jumpsTo 0x33 false = [0x1009, 0x1000, 0x1009] := by decide
theorem test_jltLit : jumpsTo 0x34 true = [0x1000, 0x100C, 0x100C] := by decide
theorem test_jltReg : jumpsTo 0x35 false = [0x1000, 0x1009, 0x1009] := by decide
theorem test_jgtLit : jumpsTo 0x36 true = [0x100C, 0x100C, 0x1000] := by decide
theorem test_jgtReg : jumpsTo 0x37 false = [0x1009, 0x1009, 0x1000] := by decide
theorem test_jleLit : jumpsTo 0x38 true = [0x1000, 0x1000, 0x100C] := by decide
theorem test_jleReg : jumpsTo 0x39 false = [0x1000, 0x1000, 0x1009] := by decide
theorem test_jgeLit : jumpsTo 0x3A true = [0x100C, 0x1000, 0x1000] := by decide
theorem test_jgeReg : jumpsTo 0x3B false = [0x1009, 0x1000, 0x1000] := by decide

/-- S1: the slot, SP and the counter. -/
theorem test_pushLit :
    let t := stepped (code [0x40, 0, 0, 0, 5, 0, 0, 0])
    (wordAt t 0xFFC, t.msp, t.reg .sp, t.fsz) = (5, 0xFFC, 0xFFC, 4) := by
  decide

/-- S9: no room below the stack's start. -/
theorem test_pushLit_overflow :
    (stepped (stackAt (code [0x40, 0, 0, 0, 1, 0, 0, 0]) 0xC00 0)).fault =
      some ⟨.stackOverflow 0xC00, 0x1000⟩ := by
  decide

/-- S3: SP still reads 0 before the first stack instruction. -/
theorem test_pushReg_sp : wordAt (stepped (code [0x41, 0, 0, 0, 0x0A])) 0xFFC = 0 := by
  decide

/-- R228's example. -/
theorem test_popReg :
    let t := stepped (stored (stackAt (code [0x42, 0, 0, 0, 1]) 0xFFC 4) 0xFFC 5)
    (t.reg .r2, t.msp, t.reg .sp, t.fsz) = (5, 0x1000, 0x1000, 0) := by
  decide

/-- S6: a privileged destination faults, and the pop stays done. -/
theorem test_popReg_privileged :
    let t := stepped (stored (stackAt (code [0x42, 0, 0, 0, 9]) 0xFFC 4) 0xFFC 5)
    (t.fault, t.msp) = (some ⟨.invalidRegister .ip, 0x1000⟩, 0x1000) := by
  decide

/-- R229's example. -/
theorem test_swap :
    let t := stepped (stored (stored (stackAt (code [0x43, 0, 0, 0]) 0xFF8 8) 0xFF8 1) 0xFFC 2)
    (wordAt t 0xFF8, wordAt t 0xFFC, t.msp) = (2, 1, 0xFF8) := by
  decide

/-- R224's example: 7 and the count 1 pushed. -/
def calling : State :=
  stored (stored (stackAt ((code [0x44, 0, 0, 0, 0x40, 0x10, 0, 0]).setReg .r1 9) 0xFF8 8) 0xFF8 1)
    0xFFC 7

theorem test_callLit :
    let t := stepped calling
    (wordAt t 0xFD0, wordAt t 0xFD4, wordAt t 0xFF4, t.reg .fp, t.fsz, t.depth, t.reg .ip) =
      (48, 0x1008, 9, 0xFD0, 0, 1, 0x1040) := by
  decide

/-- R225's example: the frame of R224's, with R1 saved as 9. -/
def returning : State :=
  let s := stackAt ((code [0x45, 0, 0, 0]).setReg .fp 0xFD0) 0xFCC 4
  { stored (stored (stored (stored (stored s 0xFFC 7) 0xFF8 1) 0xFF4 9) 0xFD4 0x1008) 0xFD0 48 with
    depth := 1 }

theorem test_ret :
    let t := stepped returning
    (t.msp, t.reg .sp, t.reg .fp, t.fsz, t.depth, t.reg .ip, t.reg .r1) =
      (0x1000, 0x1000, 0x1000, 0, 0, 0x1008, 9) := by
  decide

/-- R225: no call to match. -/
theorem test_ret_unmatched :
    (stepped (code [0x45, 0, 0, 0])).fault = some ⟨.unmatchedReturn, 0x1000⟩ := by decide

/-- R250's example. -/
theorem test_hlt :
    let t := stepped (code [0x50, 0, 0, 0])
    (t.halted, t.reg .ip, t.reg .pc, t.fault) = (true, 0x1004, 1, none) := by
  decide

/-- R251's example. -/
theorem test_outRegLit :
    (stepped (handled ((code [0x51, 0, 0, 0, 0, 0, 0, 0, 0]).setReg .r1 65) [(.out, 0)])).trace =
      [⟨.out, 0, 65⟩] := by
  decide

/-- Y4, R252's example. -/
theorem test_intLit :
    (stepped (handled ((code [0x52, 0, 0, 0, 1, 0, 0, 0]).setReg .ac 9) [(.int, 1)])).trace =
      [⟨.int, 1, 9⟩] := by
  decide

/-- Y5: an Out key does not serve an Int id. -/
theorem test_intLit_other_kind :
    (stepped (handled (code [0x52, 0, 0, 0, 0, 0, 0, 0]) [(.out, 0)])).fault =
      some ⟨.noDeviceHandler .int 0, 0x1000⟩ := by
  decide

/-- X8: an argument fault leaves IP past the opcode. -/
theorem test_argument_fault :
    let t := stepped (code [0x10, 0, 0, 0, 1, 0, 0, 0, 0x10])
    (t.fault, t.reg .ip) = (some ⟨.invalidOperand .registerId 0x10, 0x1000⟩, 0x1004) := by
  decide

/-- X12: the end of the region halts with no fault. -/
theorem test_region_end :
    let t := stepped (State.reset.loadAndEnter [0x10, 0, 0, 0, 1, 0, 0, 0, 0])
    (t.halted, t.fault, t.reg .ip, t.reg .pc) = (true, none, 0x1009, 1) := by
  decide

/-- The host's table words (HLT and MOV_LIT_REG) decode and run first. -/
theorem test_table_words :
    decodeTableWord 32 0x50 = some .hlt ∧
    decodeTableWord 72 0x020000000500000010 = some (.movLitReg 5 .r3) ∧
    (stepped (State.reset.withFetchWord 72 0x020000000500000010)).reg .r3 = 5 := by
  decide

/-! ### Witnesses: states and operands that meet the statements' hypotheses -/

/-- A machine with `hlt` to run. -/
def ready : State := code []

/-- A machine with a breakpoint at 0x1000 that asks for a halt, and one elsewhere. -/
def stopped : State :=
  { ready with cfg := { ready.cfg with breakpoints := [⟨0x1000, 0, true⟩, ⟨0x2000, 0, true⟩] } }

theorem witness_EncodedInstructionsDecodeBack :
    Config.reference.encodingLegal = true ∧
      (Instr.movLitExpMemReg [0x52, 0x31] .r2).wellFormed = true := by
  decide

theorem witness_DecodedBytesAreTheEncoding :
    Config.reference.encodingLegal = true ∧
      decodeWith Config.reference [0x41, 0, 0, 0, 3, 7] = .ok (.pushReg .r4, [7]) := by
  decide

/-- One instruction for each place of a register, and the opcode and length clauses. -/
theorem witness_IllegalEncodingsAreRefused :
    let c := Config.reference
    c.opOf 0x53 = none ∧ c.regOf 0x0F = none ∧ c.regOf 0x0E = some .test ∧
      (∀ o ∈ [Op.popReg, .movRegReg, .movRegPtrReg, .jneReg, .outRegLit, .addLitReg, .movMemReg],
        c.opOf (c.opcode o) = some o) ∧
      [Op.popReg, .movRegReg, .movRegPtrReg, .jneReg, .outRegLit, .addLitReg, .movMemReg].map
        Op.format = [.r, .rr, .qr, .rp, .rl, .lr, .pr] ∧
      textLengthOk [0x52, 0x31] = true ∧ c.opOf (c.opcode .movLitExpMemReg) = some .movLitExpMemReg ∧
      Op.movLitExpMemReg.format = .er ∧ (0x80000000 : Word).toInt < 0 := by
  decide

theorem witness_StepRunsTheDecodedInstruction :
    ready.halted = false ∧ ready.haltRequested = false ∧
      decodeFrom ready.cfg decodeFault (ready.fetchReader (opcodeAddress ready)) = .ok .hlt ∧
      ready.fault = none ∧ (stepped ready).fault = none := by
  decide

theorem witness_StepRunsTheDecodedInstruction_completes : exec .hlt ready = .next (stepped ready) := rfl

/-- A machine about to divide by zero. -/
def dividing : State := code [0x26, 0, 0, 0, 0, 0, 0, 0, 0]

/-- An instruction that decodes and then faults. -/
theorem witness_StepRunsTheDecodedInstruction_faults :
    dividing.halted = false ∧ dividing.haltRequested = false ∧
      decodeFrom dividing.cfg decodeFault (dividing.fetchReader (opcodeAddress dividing)) =
        .ok (.divLitReg 0 .r1) ∧
      dividing.fault = none ∧ (stepped dividing).fault = some ⟨.divideByZero, 0x1000⟩ := by
  decide

/-- What `Step()` returns: the record of an instruction that runs, the fault of one that decodes and
faults, and nothing from a machine that the host halts (60_exceptions.md R286). -/
theorem test_stepReturn :
    ready.stepReturn = .decoded ⟨0x1000, 0x50, .hlt, 4⟩ ∧
      dividing.stepReturn = .fault ⟨.divideByZero, 0x1000⟩ ∧ stopped.stepReturn = .nothing := by
  decide

/-- The instruction ends exactly at its region's end. -/
theorem witness_EncodedBytesInMemoryRun :
    let r : Region := ⟨3, 0x1000, 0x1004, ⟨true, false, true, false, true⟩, "executable"⟩
    ready.cfg.encodingLegal = true ∧ Instr.hlt.wellFormed = true ∧ ready.halted = false ∧
      ready.haltRequested = false ∧ RegionsInv ready ∧ r ∈ ready.regions ∧
      r.flags.publicRead = true ∧ r.flags.execute = true ∧
      (r.start : Int) ≤ opcodeAddress ready ∧
      opcodeAddress ready + Instr.hlt.length ≤ r.stop ∧
      ready.mem.readBytes (opcodeAddress ready).toNat Instr.hlt.length =
        encodeWith ready.cfg .hlt := by
  unfold RegionsInv; decide

theorem witness_HaltedMachineStaysAsItIs : (stepped ready).halted = true := by decide

/-- Both clauses: a breakpoint at IP that halts, and none at IP. -/
theorem witness_HostHaltRequestOnlyHalts :
    stopped.halted = false ∧
      (∃ b ∈ stopped.cfg.breakpoints, b.address = (stopped.reg .ip).toInt ∧ b.halts = true) ∧
      ready.halted = false ∧
      (∀ b ∈ ready.cfg.breakpoints, b.address = (ready.reg .ip).toInt → b.halts = false) := by
  decide

/-- Both cases: a fetch that fails (X1), and one that reads an opcode of no instruction (X6). -/
theorem witness_FailedFetchRecordsItsFault :
    State.reset.halted = false ∧ State.reset.haltRequested = false ∧
      fetchFault State.reset (opcodeAddress State.reset) 4 =
        some (.memoryAccessViolation 0 .execute .user) ∧
      fetchFault (code [0, 0, 0, 0]) (opcodeAddress (code [0, 0, 0, 0])) 4 = none ∧
      (code [0, 0, 0, 0]).cfg.opOf (wordAt (code [0, 0, 0, 0]) 0x1000) = none := by
  decide

theorem witness_FailedArgumentLeavesIpPastTheOpcode :
    let s := code [0x11, 0, 0, 0, 0, 0xFF]
    s.halted = false ∧ s.haltRequested = false ∧ s.fetchOp = .ok .movRegReg ∧
      s.fetchRest .movRegReg = .error (.invalidOperand .registerId 0xFF) := by
  decide

/-- Each kind of end of an argument read: a good word, byte and text, a fault of the access, a bad
register byte, a negative length and an empty text. -/
theorem witness_ArgumentReadsCheckAccessThenValue :
    let s := code [0xFF, 0xFF, 0xFF, 0xFF, 0, 0, 0, 0, 1, 0, 0, 0, 0x31]
    fetchFault s 0x1000 4 = none ∧ (wordAt s 0x1000).toInt < 0 ∧
      (wordAt s 0x1004).toInt = 0 ∧ (wordAt s 0x1008).toInt = 1 ∧
      fetchFault s 0x100C 1 = none ∧ s.cfg.regOf (s.mem.read 0x1000) = none ∧
      s.cfg.regOf (s.mem.read 0x1004) = some .r1 ∧
      fetchFault s 0x100E 4 = some (.memoryAccessViolation 0x100E .read .user) := by
  decide

theorem witness_MovWritesItsDestinationRegister :
    isPrivileged .test = false ∧ isPrivileged .pc = true := by decide

/-- A store that fits exactly, and one a byte further that does not. -/
theorem witness_MovStoresAWordAtItsAddress :
    ready.mem.wf ∧ accessFault ready .write .user (0x7FC : Word).toInt 4 = none ∧
      accessFault ready .write .user (0x7FD : Word).toInt 4 =
        some (.memoryAccessViolation 0x7FD .write .user) := by
  decide

/-- A load that fits exactly, one that does not, and one outside every region. -/
theorem witness_MovLoadsTheWordAtItsAddress :
    accessFault ready .read .user (0xFFC : Word).toInt 4 = none ∧
      accessFault ready .read .user (0xFFD : Word).toInt 4 =
        some (.memoryAccessViolation 0xFFD .read .user) ∧
      accessFault ready .read .user (0x2000 : Word).toInt 4 = some (.memoryOutOfRange 0x2000) ∧
      isPrivileged .r1 = false ∧ isPrivileged .ip = true := by
  decide

/-- A text of the grammar: ` 7`. -/
theorem witness_MovLoadsAtItsExpression :
    ExprText (operandOf (.movLitExpMemReg [0x20, 0x37] .r1) ready) [0x20, 0x37] 7 :=
  ExprText.first (a := [0x20]) (t := [0x37]) (b := []) (by simp [isBlankText])
    (TermText.numeral (by decide)) (by simp [isBlankText])

/-- The empty text is outside the grammar. -/
theorem witness_MovLoadsAtItsExpression_no_text (x : Reg → Word) : ¬ ∃ a : Int, ExprText x [] a := by
  rintro ⟨a, h⟩
  generalize he : ([] : List Byte) = e at h
  cases h with
  | first ha ht hb =>
    simp only [List.nil_eq, List.append_eq_nil_iff] at he
    obtain ⟨⟨-, rfl⟩, -⟩ := he
    cases ht with
    | register h =>
      rw [show registerNamed (List.map BitVec.toNat []) = none by decide] at h
      exact absurd h (by simp)
    | numeral h =>
      rw [show Machine.numeral (List.map BitVec.toNat []) = none by decide] at h
      exact absurd h (by simp)
  | more he' ha ht hb => simp at he

theorem witness_LiteralArithmeticWritesAcAndFlags : flagsApart ready := by
  unfold flagsApart; decide

theorem witness_RegisterArithmeticWritesAcAndFlags : flagsApart ready := by
  unfold flagsApart; decide

/-- A divisor that is 0, and one that is not, as a literal and in a register. -/
theorem witness_DivisionTruncatesTowardZero :
    flagsApart ready ∧ (0 : Word) = 0 ∧ (2 : Word) ≠ 0 ∧
      operandOf (.divRegReg .r1 .r2) ready .r1 = 0 ∧
      operandOf (.divRegReg .ip .r2) ready .ip ≠ 0 := by
  unfold flagsApart; decide

theorem witness_RemainderHasTheDividendsSign :
    flagsApart ready ∧ (0 : Word) = 0 ∧ (-1 : Word) ≠ 0 ∧
      operandOf (.modRegReg .r1 .r2) ready .r1 = 0 ∧
      operandOf (.modRegReg .ip .r2) ready .ip ≠ 0 := by
  unfold flagsApart; decide

/-- Each case of a push: no room, no Write, and the last slot that fits. -/
theorem witness_PushStoresOneSlot :
    (stackAt ready 0xC00 0).mem.wf ∧
      (stackAt ready 0xC00 0).msp - 4 < (stackAt ready 0xC00 0).cfg.stackStart ∧
      ¬ (stackAt ready 0xC04 0).msp - 4 < (stackAt ready 0xC04 0).cfg.stackStart ∧
      accessFault (stackAt ready 0xC04 0) .write .system 0xC00 4 = none ∧
      accessFault { ready with regions := [] } .write .system 0xFFC 4 =
        some (.memoryOutOfRange 0xFFC) := by
  decide

/-- Each case of a pop: an empty stack, a missing marker, an unreadable slot, a slot. -/
theorem witness_PopLoadsTheTopSlot :
    (ready.cfg.stackEnd : Int) < ready.msp + 4 ∧
      ¬ ((stackAt ready 0xFFC 4).cfg.stackEnd : Int) < (stackAt ready 0xFFC 4).msp + 4 ∧
      (debugged (stackAt ready 0xFFC 4) 0).cfg.debugStackTypes = true ∧
      (debugged (stackAt ready 0xFFC 4) 0).stackTypes = [] ∧
      accessFault { ready with regions := [] } .read .system 0xFFC 4 =
        some (.memoryOutOfRange 0xFFC) ∧
      accessFault (stackAt ready 0xFFC 4) .read .system 0xFFC 4 = none ∧
      isPrivileged .sp = true ∧ isPrivileged .r8 = false := by
  decide

/-- Each clause of SWAP, at its bound: one slot, no marker, one marker, two slots. -/
theorem witness_SwapExchangesTheTopSlots :
    let one := stackAt ready 0xFFC 4
    let two := stackAt ready 0xFF8 8
    one.mem.wf ∧ (one.cfg.stackEnd : Int) < one.msp + 8 ∧
      two.msp + 8 ≤ two.cfg.stackEnd ∧ (debugged two 0).cfg.debugStackTypes = true ∧
      (debugged two 0).stackTypes = [] ∧ (debugged two 1).stackTypes.length = 1 ∧
      (two.cfg.stackStart : Int) ≤ two.msp ∧
      ((debugged two 2).cfg.debugStackTypes = true → 2 ≤ (debugged two 2).stackTypes.length) ∧
      accessFault two .read .system two.msp 4 = none ∧
      accessFault two .read .system (two.msp + 4) 4 = none ∧
      accessFault two .write .system two.msp 4 = none ∧
      accessFault two .write .system (two.msp + 4) 4 = none := by
  decide

/-- The frame fits exactly. -/
theorem witness_CallBuildsTheFrame :
    let s := stackAt ready 0xC28 0
    s.mem.wf ∧ (s.cfg.stackStart : Int) ≤ s.msp - 40 ∧
      ∀ k : Nat, k < 10 → accessFault s .write .system (s.msp - 40 + 4 * k) 4 = none := by
  decide

/-- Nine slots fit, and the tenth does not. -/
theorem witness_CallOverflowKeepsItsPushes :
    let s := stackAt ready 0xC24 0
    s.mem.wf ∧ (s.cfg.stackStart : Int) ≤ s.msp - 4 * (9 : Nat) ∧
      s.msp - 4 * ((9 : Nat) + 1) < s.cfg.stackStart ∧
      ∀ k : Nat, k < 9 → accessFault s .write .system (s.msp - 4 * (k + 1)) 4 = none := by
  decide

/-- R225's example: one argument, and the frame reaches the stack's end. -/
theorem witness_RetRestoresTheCaller :
    returning.depth ≠ 0 ∧ (returning.reg .fp).toInt = 0xFD0 ∧
      (returning.cfg.stackStart : Int) ≤ 0xFD0 ∧
      ((returning.cfg.stackEnd : Int) - 0xFD0) % 4 = 0 ∧
      (0xFD0 : Int) + 44 + 4 * (1 : Nat) ≤ returning.cfg.stackEnd ∧
      (∀ k : Nat, k < 11 + 1 → accessFault returning .read .system (0xFD0 + 4 * k) 4 = none) ∧
      (returning.cfg.debugStackTypes = true →
        0 ≤ dropCount returning.msp 0xFD0 ∧
          dropCount returning.msp 0xFD0 + 11 + (1 : Nat) ≤ returning.stackTypes.length) ∧
      (wordAt returning (0xFD0 + 40)).toInt = (1 : Nat) := by
  decide

/-- Each clause: no call, an FP below the stack, past it, off a slot, and markers that do not match. -/
theorem witness_RetFaultsBeforePopping :
    ready.depth = 0 ∧ returning.depth ≠ 0 ∧
      ((returning.setReg .fp 0xBFC).reg .fp).toInt < returning.cfg.stackStart ∧
      (returning.cfg.stackEnd : Int) < ((returning.setReg .fp 0x1004).reg .fp).toInt ∧
      ((returning.cfg.stackEnd : Int) - ((returning.setReg .fp 0xFD1).reg .fp).toInt) % 4 ≠ 0 ∧
      (debugged returning 0).cfg.debugStackTypes = true ∧
      ((debugged returning 0).stackTypes.length : Int) <
        dropCount (debugged returning 0).msp ((debugged returning 0).reg .fp).toInt := by
  decide

/-- Both clauses: three slots above FP, and a count of -1. -/
theorem witness_RetFaultsPartWay :
    let short := returning.setReg .fp 0xFF4
    let negative := stored returning 0xFF8 (-1)
    short.depth ≠ 0 ∧ (short.cfg.stackStart : Int) ≤ (short.reg .fp).toInt ∧
      ((short.cfg.stackEnd : Int) - (short.reg .fp).toInt) % 4 = 0 ∧
      (∀ k : Nat, k < 3 → accessFault short .read .system (0xFF4 + 4 * k) 4 = none) ∧
      (short.cfg.debugStackTypes = true → False) ∧
      (short.reg .fp).toInt + 4 * (3 : Nat) = short.cfg.stackEnd ∧
      (wordAt negative (0xFD0 + 40)).toInt < 0 ∧
      (negative.reg .fp).toInt + 44 ≤ negative.cfg.stackEnd ∧
      (∀ k : Nat, k < 11 → accessFault negative .read .system (0xFD0 + 4 * k) 4 = none) := by
  decide

/-- R224's example, with a callee that returns at once: `u` is the state the call leaves. It is a call
in the outermost frame, whose FP is still 0. -/
theorem witness_ReturnUndoesItsCall :
    let s := calling
    let t := stepped s
    s.mem.wf ∧ StackInv s ∧ s.cfg.stackEnd ≤ 2147483647 ∧ (s.cfg.stackStart : Int) ≤ s.msp - 40 ∧
      (∀ k : Nat, k < 10 → accessFault s .write .system (s.msp - 40 + 4 * k) 4 = none) ∧
      (∀ k : Nat, k < 11 + 1 → accessFault s .read .system (s.msp - 40 + 4 * k) 4 = none) ∧
      (wordAt s s.msp.toNat).toInt = (1 : Nat) ∧
      s.msp + 4 + 4 * (1 : Nat) ≤ s.cfg.stackEnd ∧
      exec (.callLit 0x1040) s = .next t ∧
      hostKept t t ∧ (t.cfg.debugStackTypes = true → False) ∧
      s.msp + s.fsz.toInt = s.cfg.stackEnd ∧ s.reg .fp = 0 := by
  unfold StackInv hostKept
  dsimp only
  refine ⟨by decide, by decide, by decide, by decide,
    by decide, by decide, by decide, by decide, rfl,
    by simp, by decide, by decide, by decide⟩

/-- A call in an inner frame, whose FP is `msp + fsz`. -/
theorem witness_ReturnUndoesItsCall_inner :
    let s := stored (stackAt (calling.setReg .fp 0xFF0) 0xFE8 8) 0xFE8 1
    let t := stepped s
    s.mem.wf ∧ StackInv s ∧ s.cfg.stackEnd ≤ 2147483647 ∧ (s.cfg.stackStart : Int) ≤ s.msp - 40 ∧
      (∀ k : Nat, k < 10 → accessFault s .write .system (s.msp - 40 + 4 * k) 4 = none) ∧
      (∀ k : Nat, k < 11 + 1 → accessFault s .read .system (s.msp - 40 + 4 * k) 4 = none) ∧
      (wordAt s s.msp.toNat).toInt = (1 : Nat) ∧
      s.msp + 4 + 4 * (1 : Nat) ≤ s.cfg.stackEnd ∧
      exec (.callLit 0x1040) s = .next t ∧
      hostKept t t ∧ (t.cfg.debugStackTypes = true → False) ∧
      s.reg .fp = wrap32 (s.msp + s.fsz.toInt) := by
  unfold StackInv hostKept
  dsimp only
  refine ⟨by decide, by decide, by decide, by decide,
    by decide, by decide, by decide, by decide, rfl,
    by simp, by decide, by decide⟩

/-- A key with a handler, and one of the other kind without. -/
theorem witness_OutSendsTheRegisterToTheDevice :
    (DeviceKind.out, (0 : Word)) ∈ (handled ready [(.out, 0)]).cfg.deviceHandlers ∧
      (DeviceKind.out, (0 : Word)) ∉ (handled ready [(.int, 0)]).cfg.deviceHandlers := by
  decide

theorem witness_IntCallsTheHandlerWithAc :
    (DeviceKind.int, (1 : Word)) ∈ (handled ready [(.int, 1)]).cfg.deviceHandlers ∧
      (DeviceKind.int, (1 : Word)) ∉ (handled ready [(.out, 1)]).cfg.deviceHandlers := by
  decide

/-- A machine about to push, to add 0, and to fetch an unknown opcode. -/
def pushing : State := code [0x40, 0, 0, 0, 5, 0, 0, 0]

def adding : State := code [0x20, 0, 0, 0, 0, 0, 0, 0, 0]

def failing : State := code [0, 0, 0, 0]

theorem witness_MemoryStaysCanonical :
    MemoryInv pushing ∧ RegionsInv pushing ∧ step pushing = .next (stepped pushing) := by
  unfold MemoryInv RegionsInv
  exact ⟨by decide, by decide, rfl⟩

theorem witness_StackPointerStaysOnASlot :
    StackInv pushing ∧ ShadowInv pushing ∧ step pushing = .next (stepped pushing) := by
  unfold StackInv ShadowInv
  exact ⟨by decide, by decide, rfl⟩

/-- SP comes to follow `msp` in this step. -/
theorem witness_SpFollowsTheStackPointer :
    step pushing = .next (stepped pushing) ∧ (stepped pushing).fault = none ∧ MirrorInv pushing ∧
      (stepped pushing).reg .sp ≠ pushing.reg .sp := by
  unfold MirrorInv
  exact ⟨rfl, by decide, by decide, by decide⟩

/-- Before a fault and after it. -/
theorem witness_RecordedFaultMeansHalted :
    FaultHalts failing ∧ step failing = .next (stepped failing) ∧ FaultHalts (stepped failing) ∧
      Faulted (stepped failing) ∧ (stepped failing).halted = true := by
  unfold FaultHalts Faulted
  exact ⟨by decide, rfl, by decide, by decide, by decide⟩

theorem witness_OnlyTheHostChangesTheRegions : step pushing = .next (stepped pushing) := rfl

/-- The sum 0 + 0 sets Z. -/
theorem witness_FlagsFollowTheLastResult :
    flagsApart adding ∧ step adding = .next (stepped adding) ∧
      (stepped adding).reg .fl ≠ adding.reg .fl ∧
      adding.decodedInstr = some ⟨0x1000, 0x20, .addLitReg 0 .r1, 9⟩ ∧
      ArithResult (.addLitReg 0 .r1) adding 0 := by
  unfold flagsApart ArithResult
  exact ⟨by decide, rfl, by decide, by decide, by decide⟩

theorem witness_InstructionsChangeOnlyTheirOwnState :
    exec (.pushLit 5) pushing = .next (stepped pushing) ∧
      exec (.addLitReg 0 .r1) adding = .next (stepped adding) := ⟨rfl, rfl⟩

theorem witness_StoresChangeOnlyPermittedBytes :
    pushing.mem.wf ∧ StackInv pushing ∧ step pushing = .next (stepped pushing) ∧
      (stepped pushing).mem.read 0xFFC ≠ pushing.mem.read 0xFFC := by
  unfold StackInv
  exact ⟨by decide, by decide, rfl, by decide⟩

/-- Two machines that differ in a byte of the system region, which no bytecode can read. -/
theorem witness_HiddenBytesDoNotLeak :
    let s' := stored ready 0x800 7
    MemoryInv ready ∧ MemoryInv s' ∧ RegionsInv ready ∧ StackInv ready ∧
      s'.mem.read 0x800 ≠ ready.mem.read 0x800 ∧ step ready = .next (stepped ready) ∧
      SameVisible ready s' := by
  refine ⟨by unfold MemoryInv; decide, by unfold MemoryInv; decide, by unfold RegionsInv; decide,
    by unfold StackInv; decide, by decide, rfl, rfl, ?_⟩
  intro a ha
  refine Memory.read_writeBytes_outside (by decide) _ _ ?_
  by_contra hne
  have hin : a ∈ [0x800, 0x801, 0x802, 0x803] := by simp [bytesLe32] at hne ⊢; omega
  have hall : ∀ b ∈ [0x800, 0x801, 0x802, 0x803],
      (ready.resolve (b : Nat)).all (fun r => !r.flags.publicRead) = true ∧
        ¬ (ready.cfg.stackStart ≤ b ∧ b < ready.cfg.stackEnd) := by
    decide
  obtain ⟨h1, h2⟩ := hall a hin
  exact ha ⟨fun r hr => by simpa [hr] using h1, h2⟩

/-- A machine whose one instruction ends its region. -/
def ending : State := State.reset.loadAndEnter [0x10, 0, 0, 0, 1, 0, 0, 0, 0]

/-- Each kind of end, from a running machine with no fault. -/
theorem witness_RunsEndInOneOfFourWays :
    (∀ s ∈ [ending, stopped, failing, ready],
      s.halted = false ∧ s.fault = none ∧ (stepped s).halted = true) ∧
      endKind ending (stepped ending) = some .atRegionEnd ∧
      endKind stopped (stepped stopped) = some .byHost ∧
      endKind failing (stepped failing) = some .faulted ∧
      endKind ready (stepped ready) = some .byHlt := by
  decide

theorem witness_RunsEndInOneOfFourWays_steps :
    step ending = .next (stepped ending) ∧ step stopped = .next (stepped stopped) ∧
      step failing = .next (stepped failing) ∧ step ready = .next (stepped ready) :=
  ⟨rfl, rfl, rfl, rfl⟩

/-- The gate's two cases. -/
theorem witness_WriteGateGuardsPrivilegedRegisters :
    (Reg.fp ∈ [Reg.ip, .sp, .fp, .fl, .pc] ∧ Context.user = .user) ∧
      ¬ (Reg.fp ∈ [Reg.ip, .sp, .fp, .fl, .pc] ∧ Context.system = .user) := by
  decide

theorem witness_StoredWordReadsBackByteByByte :
    ready.mem.wf ∧ accessFault ready .write .system 0xC01 4 = none ∧
      accessFault ready .read .user 0xC01 4 = none := by
  decide

theorem witness_ConstructionLaysOutTheMachine :
    Config.reference.legal = true ∧ (Config.reference.regions[1]?).isSome = true := by
  decide

/-- A range that touches the regions beside it is added; one byte more overlaps. -/
theorem witness_AddMemoryRegionAppendsOrRefuses :
    let f : AccessFlags := ⟨true, true, true, true, false⟩
    let s := { State.reset with regions := State.reset.regions.eraseIdx 1 }
    (s.addMemoryRegion 0x800 0xC00 f "new").isSome = true ∧
      s.addMemoryRegion 0x7FF 0xC00 f "new" = none ∧
      s.addMemoryRegion 0x800 0xC01 f "new" = none ∧ s.addMemoryRegion 0x800 0x800 f "new" = none ∧
      s.addMemoryRegion (-1) 0 f "new" = none ∧ s.addMemoryRegion 0x1000 0x1001 f "new" = none := by
  decide

theorem witness_AddExecutableMemoryAppendsTheImage :
    MemoryInv State.reset ∧ ([0x50] : List Byte) ≠ [] ∧
      State.reset.memLen + ([0x50] : List Byte).length ≤ 2147483647 ∧
      2147483647 <
        ({ State.reset with memLen := 2147483647 } : State).memLen + ([0x50] : List Byte).length := by
  unfold MemoryInv; decide

theorem witness_HostOperationsKeepTheInvariants :
    MemoryInv ready ∧ RegionsInv ready ∧ (ready.addExecutableMemory [1]).isSome = true ∧
      ∀ r ∈ ready.regions, r.flags.execute = false → r.stop ≤ ready.cfg.baseMemorySize := by
  unfold MemoryInv RegionsInv; decide

/-- What removal drops: the loaded image, and not the stack region made executable. -/
theorem test_removeExecutableRegions :
    let executable := fun r : Region =>
      { r with flags := { r.flags with execute := r.start == 0xC00 || r.flags.execute } }
    let s : State := { ready with regions := ready.regions.map executable }
    s.removeExecutableRegions.regions.map Region.start = [0, 0x800, 0xC00] := by
  decide

/-- A first boot keeps a listed region with Execute, and a second one drops it with the image before
(70_reset_and_hazards.md R303; 20_memory.md R78). -/
theorem test_boot_listed_executable_region :
    let x : AccessFlags := ⟨true, true, true, true, true⟩
    let s := State.constructed { Config.reference with regions := [⟨0, 0x800, x, "x"⟩] }
    ((s.boot [1]).map fun t => t.regions.map Region.start) = some [0, 0xC00, 0x1000] ∧
      (((s.boot [1]).bind fun t => t.boot [2]).map fun t => t.regions.map Region.start) =
        some [0xC00, 0x1000] := by
  decide

theorem witness_BootRunsTheImageFromItsStart :
    construct Config.reference = some State.reset ∧ State.reset.programLoaded = false ∧
      Config.reference.execFlags.publicRead = true ∧ Config.reference.breakpoints = [] ∧
      Instr.hlt.wellFormed = true ∧
      Config.reference.baseMemorySize +
        (encodeWith Config.reference .hlt ++ [1, 2, 3]).length ≤ 2147483647 := by
  decide

end Sys2Proof.Tests
end

section
/-! PROOFS. What each instruction may change, what one step can do, and the statements of
10_state.md. -/

namespace Sys2Proof.Machine

/-! ### The parts of the state -/

/-- A part of the machine's state that instructions change or keep as a whole. -/
inductive Part where
  | reg (r : Reg)
  /-- `msp`, the markers and the frame-size counter. -/
  | stack
  | depth
  | mem
  | trace
  /-- The run-state bit and the fault record: written at the end of a cycle alone. -/
  | run
  /-- What only the host writes (10_state.md R37). -/
  | host
  deriving DecidableEq

/-- The part is the same in both states. -/
def Part.Kept : Part → State → State → Prop
  | .reg r, s, t => t.reg r = s.reg r
  | .stack, s, t => t.msp = s.msp ∧ t.stackTypes = s.stackTypes ∧ t.fsz = s.fsz
  | .depth, s, t => t.depth = s.depth
  | .mem, s, t => t.mem = s.mem
  | .trace, s, t => t.trace = s.trace
  | .run, s, t => t.halted = s.halted ∧ t.fault = s.fault
  | .host, s, t => hostKept s t

theorem Part.Kept.refl (p : Part) (s : State) : p.Kept s s := by
  cases p <;> simp [Part.Kept, hostKept]

theorem Part.Kept.trans {p : Part} {s t u : State} (h : p.Kept s t) (h' : p.Kept t u) :
    p.Kept s u := by
  cases p <;> simp_all [Part.Kept, hostKept]

/-! ### What one update of the state keeps -/

theorem kept_setReg {p : Part} {r : Reg} (h : p ≠ .reg r) (s : State) (v : Word) :
    p.Kept s (s.setReg r v) := by
  cases p with
  | reg r' => exact State.reg_setReg_of_ne s v fun e => h (congrArg Part.reg e)
  | _ => simp [Part.Kept, hostKept]

theorem kept_storeBytes {p : Part} (h : p ≠ .mem) (s : State) (a : Nat) (bs : List Byte) :
    p.Kept s (s.storeBytes a bs) := by
  cases p <;> simp_all [Part.Kept, hostKept]

theorem kept_pushed {p : Part} (h : p ≠ .stack) (s : State) : p.Kept s s.pushed := by
  cases p <;> simp_all [Part.Kept, hostKept]

theorem kept_popped {p : Part} (h : p ≠ .stack) (s : State) : p.Kept s s.popped := by
  cases p <;> simp_all [Part.Kept, hostKept]

theorem kept_droppedTo {p : Part} (h : p ≠ .stack) (s : State) (a : Int) :
    p.Kept s (s.droppedTo a) := by
  cases p <;> simp_all [Part.Kept, hostKept]

theorem kept_counted {p : Part} (h : p ≠ .stack) (s : State) (n : Int) :
    p.Kept s (s.counted n) := by
  cases p <;> simp_all [Part.Kept, hostKept]

theorem kept_entered {p : Part} (hs : p ≠ .stack) (hd : p ≠ .depth) (s : State) :
    p.Kept s s.entered := by
  cases p <;> simp_all [Part.Kept, hostKept]

theorem kept_returned {p : Part} (hs : p ≠ .stack) (hd : p ≠ .depth) (s : State) (size n : Word) :
    p.Kept s (s.returned size n) := by
  cases p <;> simp_all [Part.Kept, hostKept]

theorem kept_emitted {p : Part} (h : p ≠ .trace) (s : State) (e : DeviceEvent) :
    p.Kept s (s.emitted e) := by
  cases p <;> simp_all [Part.Kept, hostKept]

theorem kept_advance {p : Part} (h : p ≠ .reg .ip) (s : State) (i : Instr) :
    p.Kept s (s.advance i) := kept_setReg h s _

theorem kept_pastOpcode {p : Part} (h : p ≠ .reg .ip) (s : State) : p.Kept s s.pastOpcode :=
  kept_setReg h s _

theorem kept_takeFault {p : Part} (h : p ≠ .run) (s : State) (a0 : Int) (f : Fault) :
    p.Kept s (s.takeFault a0 f) := by
  cases p <;> simp_all [Part.Kept, hostKept]

theorem kept_retire {p : Part} (hpc : p ≠ .reg .pc) (hr : p ≠ .run) (s : State) (a0 : Int)
    (q : Bool) : p.Kept s (s.retire a0 q) := by
  cases p with
  | reg r => exact (State.retire_reg s a0 q r).trans (if_neg fun e => hpc (congrArg Part.reg e))
  | run => exact absurd rfl hr
  | _ => simp [Part.Kept, hostKept]

/-! ### What an action may change -/

theorem Part.ne_of_not {P : Part → Prop} {p q : Part} (hp : ¬ P p) (hq : P q) : p ≠ q :=
  fun e => hp (e ▸ hq)

/-- The state an action leaves, whether it answers or raises. -/
def Act.final {α : Type} (x : Act α) (s : State) : State :=
  match x s with
  | .ok _ t => t
  | .error _ t => t

theorem Act.final_of_ok {α : Type} {x : Act α} {s t : State} {a : α} (h : x s = .ok a t) :
    x.final s = t := by
  rw [Act.final, h]

theorem Act.final_of_error {α : Type} {x : Act α} {s t : State} {f : Fault}
    (h : x s = .error f t) : x.final s = t := by
  rw [Act.final, h]

/-- On every state the action, whether it answers or raises, keeps each part outside `P`. -/
def Act.ChangesOnly {α : Type} (P : Part → Prop) (x : Act α) : Prop :=
  ∀ s p, ¬ P p → p.Kept s (x.final s)

section ChangesOnly

variable {P : Part → Prop} {α β : Type}

/-- An action that leaves the state as it is may be said to change anything. -/
theorem changesOnly_of_final {x : Act α} (h : ∀ s, x.final s = s) : Act.ChangesOnly P x :=
  fun s p _ => (h s).symm ▸ Part.Kept.refl p s

theorem changesOnly_pure (a : α) : Act.ChangesOnly P (pure a : Act α) :=
  changesOnly_of_final fun _ => rfl

theorem changesOnly_theState : Act.ChangesOnly P theState := changesOnly_of_final fun _ => rfl

theorem changesOnly_getReg (r : Reg) : Act.ChangesOnly P (getReg r) :=
  changesOnly_of_final fun _ => rfl

theorem changesOnly_require (b : Bool) (f : Fault) : Act.ChangesOnly P (require b f) :=
  changesOnly_of_final fun _ => by cases b <;> rfl

theorem changesOnly_inspect (g : State → Except Fault α) : Act.ChangesOnly P (inspect g) :=
  changesOnly_of_final fun s => by
    rw [Act.final, inspect_apply]
    cases g s <;> rfl

theorem changesOnly_update {g : State → State} (h : ∀ s p, ¬ P p → p.Kept s (g s)) :
    Act.ChangesOnly P (update g) := h

/-- Statements in order change only what each of them may change. -/
theorem Act.ChangesOnly.bind {x : Act α} {k : α → Act β} (hx : Act.ChangesOnly P x)
    (hk : ∀ a, Act.ChangesOnly P (k a)) : Act.ChangesOnly P (x >>= k) := by
  intro s p hp
  have hx' := hx s p hp
  simp only [Act.final, Act.bind_apply] at hx' ⊢
  cases h : x s with
  | ok a t =>
    rw [h] at hx'
    exact hx'.trans (hk a t p hp)
  | error f t =>
    rw [h] at hx'
    exact hx'

theorem changesOnly_thenGoOn {x : Act Unit} (hx : Act.ChangesOnly P x) :
    Act.ChangesOnly P (thenGoOn x) :=
  hx.bind fun _ => changesOnly_pure _

theorem changesOnly_writeReg {ctx : Context} {r : Reg} {v : Word}
    (h : writeAllowed ctx r = true → P (.reg r)) : Act.ChangesOnly P (writeReg ctx r v) := by
  intro s p hp
  rw [Act.final, writeReg_apply]
  cases ha : writeAllowed ctx r with
  | true => exact kept_setReg (Part.ne_of_not hp (h ha)) s v
  | false => exact Part.Kept.refl p s

theorem changesOnly_storeInt (h : P .mem) (a : Int) (v : Word) (ctx : Context) :
    Act.ChangesOnly P (storeInt a v ctx) := by
  intro s p hp
  rw [Act.final, storeInt_apply]
  cases s.writeFault a 4 ctx with
  | some f => exact Part.Kept.refl p s
  | none => exact kept_storeBytes (Part.ne_of_not hp h) s _ _

/-! ### The stack's operations -/

theorem changesOnly_stackPush (hs : P .stack) (hm : P .mem) (v : Word) :
    Act.ChangesOnly P (stackPush v) :=
  changesOnly_theState.bind fun _ => (changesOnly_require _ _).bind fun _ =>
    (changesOnly_storeInt hm _ _ _).bind fun _ =>
      changesOnly_update fun s _ hp => kept_pushed (Part.ne_of_not hp hs) s

theorem changesOnly_stackPop (hs : P .stack) : Act.ChangesOnly P stackPop :=
  changesOnly_theState.bind fun _ => (changesOnly_require _ _).bind fun _ =>
    (changesOnly_require _ _).bind fun _ => (changesOnly_inspect _).bind fun _ =>
      (changesOnly_update fun s _ hp => kept_popped (Part.ne_of_not hp hs) s).bind fun _ =>
        changesOnly_pure _

theorem changesOnly_stackDropTo (hs : P .stack) (a : Int) : Act.ChangesOnly P (stackDropTo a) :=
  changesOnly_theState.bind fun _ => (changesOnly_require _ _).bind fun _ =>
    (changesOnly_require _ _).bind fun _ => (changesOnly_require _ _).bind fun _ =>
      changesOnly_update fun s _ hp => kept_droppedTo (Part.ne_of_not hp hs) s a

theorem changesOnly_mirrorSp (hsp : P (.reg .sp)) : Act.ChangesOnly P mirrorSp :=
  changesOnly_theState.bind fun _ => changesOnly_writeReg fun _ => hsp

theorem changesOnly_countFrame (hs : P .stack) (n : Int) : Act.ChangesOnly P (countFrame n) :=
  changesOnly_update fun s _ hp => kept_counted (Part.ne_of_not hp hs) s n

theorem changesOnly_pushCounted (hs : P .stack) (hm : P .mem) (v : Word) :
    Act.ChangesOnly P (pushCounted v) :=
  (changesOnly_stackPush hs hm v).bind fun _ => changesOnly_countFrame hs 4

theorem changesOnly_cpuPush (hsp : P (.reg .sp)) (hs : P .stack) (hm : P .mem) (v : Word) :
    Act.ChangesOnly P (cpuPush v) :=
  (changesOnly_pushCounted hs hm v).bind fun _ => changesOnly_mirrorSp hsp

theorem changesOnly_cpuPop (hsp : P (.reg .sp)) (hs : P .stack) : Act.ChangesOnly P cpuPop :=
  (changesOnly_stackPop hs).bind fun _ => (changesOnly_countFrame hs _).bind fun _ =>
    (changesOnly_mirrorSp hsp).bind fun _ => changesOnly_pure _

theorem changesOnly_swapBody (hsp : P (.reg .sp)) (hs : P .stack) (hm : P .mem) :
    Act.ChangesOnly P swapBody :=
  changesOnly_theState.bind fun _ => (changesOnly_require _ _).bind fun _ =>
    (changesOnly_stackPop hs).bind fun _ => (changesOnly_stackPop hs).bind fun _ =>
      (changesOnly_stackPush hs hm _).bind fun _ => (changesOnly_stackPush hs hm _).bind fun _ =>
        changesOnly_mirrorSp hsp

theorem changesOnly_pushRegs (hs : P .stack) (hm : P .mem) (rs : List Reg) :
    Act.ChangesOnly P (pushRegs rs) := by
  induction rs with
  | nil => exact changesOnly_pure ()
  | cons r rs ih =>
    exact (changesOnly_getReg r).bind fun v => (changesOnly_pushCounted hs hm v).bind fun _ => ih

theorem changesOnly_popRegs (hs : P .stack) {rs : List Reg} (hr : ∀ r ∈ rs, P (.reg r)) :
    Act.ChangesOnly P (popRegs rs) := by
  induction rs with
  | nil => exact changesOnly_pure ()
  | cons r rs ih =>
    obtain ⟨hr, hrs⟩ := List.forall_mem_cons.mp hr
    exact (changesOnly_stackPop hs).bind fun _ =>
      (changesOnly_writeReg fun _ => hr).bind fun _ => ih hrs

theorem changesOnly_discardSlots (hs : P .stack) (n : Nat) :
    Act.ChangesOnly P (discardSlots n) := by
  induction n with
  | zero => exact changesOnly_pure ()
  | succ n ih => exact (changesOnly_stackPop hs).bind fun _ => ih

theorem changesOnly_enterFrame (hfp : P (.reg .fp)) (hs : P .stack) (hd : P .depth) :
    Act.ChangesOnly P enterFrame :=
  changesOnly_theState.bind fun _ => (changesOnly_writeReg fun _ => hfp).bind fun _ =>
    changesOnly_update fun s _ hp =>
      kept_entered (Part.ne_of_not hp hs) (Part.ne_of_not hp hd) s

theorem changesOnly_callBody (hip : P (.reg .ip)) (hsp : P (.reg .sp)) (hfp : P (.reg .fp))
    (hs : P .stack) (hd : P .depth) (hm : P .mem) (target : Word) :
    Act.ChangesOnly P (callBody target) :=
  (changesOnly_getReg .ip).bind fun ra => (changesOnly_pushRegs hs hm savedRegs).bind fun _ =>
    (changesOnly_pushCounted hs hm ra).bind fun _ =>
      (changesOnly_theState.bind fun _ => changesOnly_stackPush hs hm _).bind fun _ =>
        (changesOnly_enterFrame hfp hs hd).bind fun _ =>
          (changesOnly_mirrorSp hsp).bind fun _ => changesOnly_writeReg fun _ => hip

theorem changesOnly_retBody (hr : ∀ r ∈ .ip :: savedRegs.reverse, P (.reg r))
    (hsp : P (.reg .sp)) (hfp : P (.reg .fp)) (hs : P .stack) (hd : P .depth) :
    Act.ChangesOnly P retBody :=
  changesOnly_theState.bind fun _ => (changesOnly_require _ _).bind fun _ =>
    (changesOnly_getReg .fp).bind fun _ => (changesOnly_stackDropTo hs _).bind fun _ =>
      (changesOnly_stackPop hs).bind fun size => (changesOnly_popRegs hs hr).bind fun _ =>
        (changesOnly_stackPop hs).bind fun n => (changesOnly_require _ _).bind fun _ =>
          (changesOnly_discardSlots hs _).bind fun _ =>
            (changesOnly_writeReg fun _ => hfp).bind fun _ =>
              (changesOnly_update fun s _ hp =>
                kept_returned (Part.ne_of_not hp hs) (Part.ne_of_not hp hd) s size n).bind
                fun _ => changesOnly_mirrorSp hsp

/-! ### The other families -/

theorem changesOnly_loadPointer (rp : Reg) : Act.ChangesOnly P (loadPointer rp) :=
  (changesOnly_getReg rp).bind fun _ => changesOnly_inspect _

theorem changesOnly_loadExpression (e : List Byte) : Act.ChangesOnly P (loadExpression e) :=
  (changesOnly_inspect _).bind fun _ => changesOnly_inspect _

theorem changesOnly_setArith (hac : P (.reg .ac)) (hfl : P (.reg .fl)) (w : Int) :
    Act.ChangesOnly P (setArith w) :=
  (changesOnly_writeReg fun _ => hac).bind fun _ => changesOnly_theState.bind fun _ =>
    changesOnly_writeReg fun _ => hfl

theorem changesOnly_division (hac : P (.reg .ac)) (hfl : P (.reg .fl)) (f : Int → Int → Int)
    (n d : Word) : Act.ChangesOnly P (division f n d) :=
  (changesOnly_require _ _).bind fun _ => changesOnly_setArith hac hfl _

theorem changesOnly_jumpIf (hip : P (.reg .ip)) (rel : Relation) (o : Op) (v target : Word) :
    Act.ChangesOnly P (jumpIf rel o v target) :=
  changesOnly_theState.bind fun s => by
    cases relationHolds rel v (s.reg .ac) with
    | true => exact changesOnly_writeReg fun _ => hip
    | false => exact changesOnly_pure ()

theorem changesOnly_deviceCall (ht : P .trace) (kind : DeviceKind) (key v : Word) :
    Act.ChangesOnly P (deviceCall kind key v) :=
  changesOnly_theState.bind fun _ => (changesOnly_require _ _).bind fun _ =>
    changesOnly_update fun s _ hp => kept_emitted (Part.ne_of_not hp ht) s _

end ChangesOnly

/-! ### What each instruction may change -/

/-- The statements `exec` runs for an instruction; `exec_eq_cycle` ties them to it. -/
def statements : Instr → Act Bool
  | .movLitReg lit r => thenGoOn (writeDestination r lit)
  | .movRegReg ra rb => thenGoOn (movRegRegBody ra rb)
  | .movLitMem lit a => thenGoOn (storeDirect a lit)
  | .movRegMem r a => thenGoOn (movRegMemBody r a)
  | .movMemReg a r => thenGoOn (loadInto (loadDirect a) r)
  | .movRegPtrReg rp r => thenGoOn (loadInto (loadPointer rp) r)
  | .movLitExpMemReg e r => thenGoOn (loadInto (loadExpression e) r)
  | .addLitReg lit r => thenGoOn (arithLitReg (· + ·) lit r)
  | .addRegReg ra rb => thenGoOn (arithRegReg (· + ·) ra rb)
  | .subLitReg lit r => thenGoOn (arithLitReg (· - ·) lit r)
  | .subRegReg ra rb => thenGoOn (arithRegReg (· - ·) ra rb)
  | .mulLitReg lit r => thenGoOn (arithLitReg (· * ·) lit r)
  | .mulRegReg ra rb => thenGoOn (arithRegReg (· * ·) ra rb)
  | .divLitReg lit r => thenGoOn (divLitRegBody quotient lit r)
  | .divRegReg ra rb => thenGoOn (divRegRegBody quotient ra rb)
  | .modLitReg lit r => thenGoOn (divLitRegBody remainder lit r)
  | .modRegReg ra rb => thenGoOn (divRegRegBody remainder ra rb)
  | .jmpNotEq lit a => thenGoOn (jumpIf .ne .jmpNotEq lit a)
  | .jneReg r a => thenGoOn (jumpRegBody .ne .jneReg r a)
  | .jeqLit lit a => thenGoOn (jumpIf .eq .jeqLit lit a)
  | .jeqReg r a => thenGoOn (jumpRegBody .eq .jeqReg r a)
  | .jltLit lit a => thenGoOn (jumpIf .lt .jltLit lit a)
  | .jltReg r a => thenGoOn (jumpRegBody .lt .jltReg r a)
  | .jgtLit lit a => thenGoOn (jumpIf .gt .jgtLit lit a)
  | .jgtReg r a => thenGoOn (jumpRegBody .gt .jgtReg r a)
  | .jleLit lit a => thenGoOn (jumpIf .le .jleLit lit a)
  | .jleReg r a => thenGoOn (jumpRegBody .le .jleReg r a)
  | .jgeLit lit a => thenGoOn (jumpIf .ge .jgeLit lit a)
  | .jgeReg r a => thenGoOn (jumpRegBody .ge .jgeReg r a)
  | .pushLit lit => thenGoOn (cpuPush lit)
  | .pushReg r => thenGoOn (pushRegBody r)
  | .popReg r => thenGoOn (popRegBody r)
  | .swap => thenGoOn swapBody
  | .callLit a => thenGoOn (callBody a)
  | .ret => thenGoOn retBody
  | .hlt => pure true
  | .outRegLit r lit => thenGoOn (outRegLitBody r lit)
  | .intLit lit => thenGoOn (intLitBody lit)

theorem exec_eq_cycle (i : Instr) (s : State) : exec i s = cycle i (statements i) s := by
  cases i <;> rfl

/-- The stack, call and return instructions (44_stack_and_call.md). -/
def stackOps : List Op := [.pushLit, .pushReg, .popReg, .swap, .callLit, .ret]

/-- The instructions that may change a part by what they are, whatever their destination operand. -/
def Part.writers : Part → List Op
  | .reg .ip => .callLit :: .ret :: jumpOps
  | .reg .sp | .stack => stackOps
  | .reg .fp | .depth => [.callLit, .ret]
  | .reg .ac | .reg .fl => arithmeticOps
  | .reg .pc | .reg .test => []
  | .reg .r1 | .reg .r2 | .reg .r3 | .reg .r4 | .reg .r5 | .reg .r6 | .reg .r7 | .reg .r8 => [.ret]
  | .mem => [.movLitMem, .movRegMem, .pushLit, .pushReg, .swap, .callLit]
  | .trace => [.outRegLit, .intLit]
  | .run | .host => []

/-- The statements of the instruction may change the part: the instruction is one of the part's
writers, or the part is its destination operand and User may write it (10_state.md R24, R26). -/
def MayChange (i : Instr) (p : Part) : Prop :=
  i.op ∈ p.writers ∨ ∃ r, p = .reg r ∧ destinationOf i = some r ∧ isPrivileged r = false

theorem MayChange.byOp {i : Instr} {p : Part} (h : decide (i.op ∈ p.writers) = true) :
    MayChange i p := .inl (of_decide_eq_true h)

theorem ret_mem_writers : ∀ r ∈ .ip :: savedRegs.reverse, Op.ret ∈ (Part.reg r).writers := by
  decide

/-- A named destination is a part the instruction may change, where the gate admits the write. -/
theorem changesOnly_destination {i : Instr} {rd : Reg} (h : destinationOf i = some rd) (v : Word) :
    Act.ChangesOnly (MayChange i) (writeDestination rd v) :=
  changesOnly_writeReg fun ha => .inr ⟨rd, rfl, h, by simpa using ha⟩

theorem statements_changesOnly (i : Instr) : Act.ChangesOnly (MayChange i) (statements i) := by
  cases i
  case movLitReg lit r =>
    exact changesOnly_thenGoOn (changesOnly_destination rfl lit)
  case movRegReg ra rb =>
    exact changesOnly_thenGoOn <|
      (changesOnly_getReg ra).bind fun v => changesOnly_destination rfl v
  case movLitMem lit a => exact changesOnly_thenGoOn (changesOnly_storeInt (.byOp rfl) _ _ _)
  case movRegMem r a =>
    exact changesOnly_thenGoOn <|
      (changesOnly_getReg r).bind fun _ => changesOnly_storeInt (.byOp rfl) _ _ _
  case movMemReg a r =>
    exact changesOnly_thenGoOn <|
      (changesOnly_inspect _).bind fun v => changesOnly_destination rfl v
  case movRegPtrReg rp r =>
    exact changesOnly_thenGoOn <|
      (changesOnly_loadPointer rp).bind fun v => changesOnly_destination rfl v
  case movLitExpMemReg e r =>
    exact changesOnly_thenGoOn <|
      (changesOnly_loadExpression e).bind fun v => changesOnly_destination rfl v
  case addLitReg lit r | subLitReg lit r | mulLitReg lit r =>
    exact changesOnly_thenGoOn <|
      (changesOnly_getReg r).bind fun _ => changesOnly_setArith (.byOp rfl) (.byOp rfl) _
  case addRegReg ra rb | subRegReg ra rb | mulRegReg ra rb =>
    exact changesOnly_thenGoOn <| (changesOnly_getReg ra).bind fun _ =>
      (changesOnly_getReg rb).bind fun _ => changesOnly_setArith (.byOp rfl) (.byOp rfl) _
  case divLitReg lit r | modLitReg lit r =>
    exact changesOnly_thenGoOn <|
      (changesOnly_getReg r).bind fun _ => changesOnly_division (.byOp rfl) (.byOp rfl) _ _ _
  case divRegReg ra rb | modRegReg ra rb =>
    exact changesOnly_thenGoOn <| (changesOnly_getReg ra).bind fun _ =>
      (changesOnly_getReg rb).bind fun _ => changesOnly_division (.byOp rfl) (.byOp rfl) _ _ _
  case jmpNotEq | jeqLit | jltLit | jgtLit | jleLit | jgeLit =>
    exact changesOnly_thenGoOn (changesOnly_jumpIf (.byOp rfl) _ _ _ _)
  case jneReg r a | jeqReg r a | jltReg r a | jgtReg r a | jleReg r a | jgeReg r a =>
    exact changesOnly_thenGoOn <|
      (changesOnly_getReg r).bind fun _ => changesOnly_jumpIf (.byOp rfl) _ _ _ _
  case pushLit lit =>
    exact changesOnly_thenGoOn (changesOnly_cpuPush (.byOp rfl) (.byOp rfl) (.byOp rfl) lit)
  case pushReg r =>
    exact changesOnly_thenGoOn <| (changesOnly_getReg r).bind fun v =>
      changesOnly_cpuPush (.byOp rfl) (.byOp rfl) (.byOp rfl) v
  case popReg r =>
    exact changesOnly_thenGoOn <| (changesOnly_cpuPop (.byOp rfl) (.byOp rfl)).bind fun v =>
      changesOnly_destination rfl v
  case swap =>
    exact changesOnly_thenGoOn (changesOnly_swapBody (.byOp rfl) (.byOp rfl) (.byOp rfl))
  case callLit a =>
    exact changesOnly_thenGoOn <| changesOnly_callBody (.byOp rfl) (.byOp rfl) (.byOp rfl)
      (.byOp rfl) (.byOp rfl) (.byOp rfl) a
  case ret =>
    exact changesOnly_thenGoOn <| changesOnly_retBody
      (fun r hr => .inl (ret_mem_writers r hr)) (.byOp rfl) (.byOp rfl) (.byOp rfl) (.byOp rfl)
  case hlt => exact changesOnly_pure true
  case outRegLit r lit =>
    exact changesOnly_thenGoOn <| (changesOnly_getReg r).bind fun _ =>
      changesOnly_deviceCall (.byOp rfl) _ _ _
  case intLit lit =>
    exact changesOnly_thenGoOn <| (changesOnly_getReg .ac).bind fun _ =>
      changesOnly_deviceCall (.byOp rfl) _ _ _

theorem not_mayChange {i : Instr} {p : Part} (hw : i.op ∉ p.writers)
    (hd : ∀ r, p = .reg r → isPrivileged r = false → destinationOf i ≠ some r) :
    ¬ MayChange i p := by
  rintro (h | ⟨r, rfl, hr, hu⟩)
  · exact hw h
  · exact hd r rfl hu hr

/-- The gate keeps an instruction from PC, which none writes by what it is. -/
theorem not_mayChange_pc (i : Instr) : ¬ MayChange i (.reg .pc) :=
  not_mayChange List.not_mem_nil nofun

theorem not_mayChange_run (i : Instr) : ¬ MayChange i .run := not_mayChange List.not_mem_nil nofun

theorem not_mayChange_host (i : Instr) : ¬ MayChange i .host := not_mayChange List.not_mem_nil nofun

/-! ### What one instruction's cycle can do -/

/-- An instruction's cycle ends in one of two ways: its statements run to their end and it retires,
or one of them raises and the fault is taken (40_cycle.md R144; 60_exceptions.md R271). -/
theorem exec_cases (i : Instr) (s : State) :
    (∃ q u, statements i (s.advance i) = .ok q u ∧
      exec i s = .next (u.retire (opcodeAddress s) q)) ∨
    (∃ f u, statements i (s.advance i) = .error f u ∧
      exec i s = .next (u.takeFault (opcodeAddress s) f)) := by
  rw [exec_eq_cycle]
  exact cycle_next i (statements i) s

/-- The parts that the cycle around the statements writes itself (40_cycle.md R143-R146). -/
def cycleParts : List Part := [.reg .ip, .reg .pc, .run]

/-- After IP's advance and the statements, whether they answered or raised, a part that neither
writes is as before the cycle. -/
theorem kept_of_final {i : Instr} {s u : State} (hu : (statements i).final (s.advance i) = u)
    {p : Part} (hip : p ≠ .reg .ip) (hp : ¬ MayChange i p) : p.Kept s u :=
  hu ▸ (kept_advance hip s i).trans (statements_changesOnly i _ p hp)

/-- What the statements keep, the whole cycle keeps too, but for the parts it writes itself. -/
theorem exec_kept {i : Instr} {s t : State} (h : exec i s = .next t) {p : Part}
    (hc : p ∉ cycleParts) (hp : ¬ MayChange i p) : p.Kept s t := by
  simp only [cycleParts, List.mem_cons, List.not_mem_nil, or_false, not_or] at hc
  obtain ⟨hip, hpc, hrun⟩ := hc
  obtain ⟨q, u, hu, he⟩ | ⟨f, u, hu, he⟩ := exec_cases i s
  · obtain rfl := Host.Outcome.next.inj (he.symm.trans h)
    exact (kept_of_final (Act.final_of_ok hu) hip hp).trans (kept_retire hpc hrun u _ q)
  · obtain rfl := Host.Outcome.next.inj (he.symm.trans h)
    exact (kept_of_final (Act.final_of_error hu) hip hp).trans (kept_takeFault hrun u _ f)

/-- A register is kept by an instruction that neither writes it by what it is nor names it as its
destination. -/
theorem exec_reg_kept {i : Instr} {s t : State} (h : exec i s = .next t) {r : Reg}
    (hc : .reg r ∉ cycleParts) (hw : i.op ∉ (Part.reg r).writers)
    (hd : destinationOf i ≠ some r) : t.reg r = s.reg r :=
  exec_kept (p := .reg r) h hc (not_mayChange hw fun _ e _ => Part.reg.inj e ▸ hd)

/-- An instruction that is no jump, call or return leaves IP at the next instruction, faulting or
not. -/
theorem exec_ip {i : Instr} {s t : State} (h : exec i s = .next t)
    (hw : i.op ∉ (Part.reg .ip).writers) : t.reg .ip = nextAddress i s := by
  have hbody : ((statements i).final (s.advance i)).reg .ip = nextAddress i s :=
    (statements_changesOnly i _ (.reg .ip) (not_mayChange hw nofun)).trans
      (State.reg_setReg_self s .ip _)
  obtain ⟨q, u, hu, he⟩ | ⟨f, u, hu, he⟩ := exec_cases i s
  · obtain rfl := Host.Outcome.next.inj (he.symm.trans h)
    rw [Act.final_of_ok hu] at hbody
    exact (State.reg_setReg_of_ne u _ (by decide)).trans hbody
  · obtain rfl := Host.Outcome.next.inj (he.symm.trans h)
    rw [Act.final_of_error hu] at hbody
    exact hbody

theorem savedRegs_writers : ∀ r ∈ savedRegs, (Part.reg r).writers = [.ret] := by decide

theorem savedRegs_notMem_cycleParts : ∀ r ∈ savedRegs, Part.reg r ∉ cycleParts := by decide

/-- Settles O45: each part of the state is changed by its writers alone. -/
theorem instructionsChangeOnlyTheirOwnState : Obligations.InstructionsChangeOnlyTheirOwnState := by
  unfold Obligations.InstructionsChangeOnlyTheirOwnState
  intro i s t h
  refine ⟨fun hj hc hr => ?ip, fun hs => ⟨?sp, ?stack⟩, fun hc hr => ⟨?fp, ?depth⟩, fun ha => ?fl,
    fun ha hd => ?ac, fun hd => ?test, fun r hr hret hd => ?saved, fun hm => ?mem, fun ht => ?trace⟩
  case ip => exact exec_ip h (by simp [Part.writers, hj, hc, hr])
  case sp => exact exec_kept (p := .reg .sp) h (by decide) (not_mayChange hs nofun)
  case stack => exact exec_kept (p := .stack) h (by decide) (not_mayChange hs nofun)
  case fp =>
    exact exec_kept (p := .reg .fp) h (by decide)
      (not_mayChange (by simp [Part.writers, hc, hr]) nofun)
  case depth =>
    exact exec_kept (p := .depth) h (by decide)
      (not_mayChange (by simp [Part.writers, hc, hr]) nofun)
  case fl => exact exec_kept (p := .reg .fl) h (by decide) (not_mayChange ha nofun)
  case ac => exact exec_reg_kept h (by decide) ha hd
  case test => exact exec_reg_kept h (by decide) List.not_mem_nil hd
  case saved =>
    exact exec_reg_kept h (savedRegs_notMem_cycleParts r hr)
      (by simp [savedRegs_writers r hr, hret]) hd
  case mem => exact exec_kept (p := .mem) h (by decide) (not_mayChange hm nofun)
  case trace => exact exec_kept (p := .trace) h (by decide) (not_mayChange ht nofun)

/-! ### What one step can do -/

/-- The ends of one step, with the state each leaves (40_cycle.md R150; 60_exceptions.md R273). -/
inductive StepEnd (s : State) : State → Prop where
  | halted (h : s.halted = true) : StepEnd s s
  | hostHalt (h : s.halted = false) (hr : s.haltRequested = true) :
      StepEnd s { s with halted := true }
  | opcodeFault (h : s.halted = false) (hr : s.haltRequested = false) {f : Fault}
      (hf : s.fetchOp = .error f) : StepEnd s (s.takeFault (opcodeAddress s) f)
  | argumentFault (h : s.halted = false) (hr : s.haltRequested = false) {o : Op} {f : Fault}
      (ho : s.fetchOp = .ok o) (hf : s.fetchRest o = .error f) :
      StepEnd s (s.pastOpcode.takeFault (opcodeAddress s) f)
  | completed (h : s.halted = false) (hr : s.haltRequested = false) {o : Op} {i : Instr}
      {q : Bool} {u : State} (ho : s.fetchOp = .ok o) (hi : s.fetchRest o = .ok i)
      (hu : statements i (s.advance i) = .ok q u) : StepEnd s (u.retire (opcodeAddress s) q)
  | faulted (h : s.halted = false) (hr : s.haltRequested = false) {o : Op} {i : Instr}
      {f : Fault} {u : State} (ho : s.fetchOp = .ok o) (hi : s.fetchRest o = .ok i)
      (hu : statements i (s.advance i) = .error f u) :
      StepEnd s (u.takeFault (opcodeAddress s) f)

/-- Every step goes to a next state, by one of the ends. -/
theorem step_ends (s : State) : ∃ t, step s = .next t ∧ StepEnd s t := by
  unfold step
  split
  case isTrue h => exact ⟨_, rfl, .halted h⟩
  case isFalse h =>
    have h : s.halted = false := by simpa using h
    split
    case isTrue hr => exact ⟨_, rfl, .hostHalt h hr⟩
    case isFalse hr =>
      have hr : s.haltRequested = false := by simpa using hr
      cases ho : s.fetchOp with
      | error f => exact ⟨_, rfl, .opcodeFault h hr ho⟩
      | ok o =>
        cases hi : s.fetchRest o with
        | error f => exact ⟨_, by simp only [hi, opcodeAddress], .argumentFault h hr ho hi⟩
        | ok i =>
          obtain ⟨q, u, hu, he⟩ | ⟨f, u, hu, he⟩ := exec_cases i s
          · exact ⟨_, by simp only [hi, he], .completed h hr ho hi hu⟩
          · exact ⟨_, by simp only [hi, he], .faulted h hr ho hi hu⟩

theorem stepEnd_of_step {s t : State} (h : step s = .next t) : StepEnd s t := by
  obtain ⟨t', h', ht'⟩ := step_ends s
  obtain rfl := Host.Outcome.next.inj (h'.symm.trans h)
  exact ht'

/-- Settles O14: the statements keep PC and the fault record, and retiring alone counts. -/
theorem pcCountsCompletedInstructions : Obligations.PcCountsCompletedInstructions := by
  unfold Obligations.PcCountsCompletedInstructions
  refine ⟨rfl, fun s => ?_⟩
  obtain ⟨t, ht, hend⟩ := step_ends s
  refine ⟨t, ht, ?_⟩
  cases hend with
  | halted h => exact .inr ⟨rfl, h, .inl h⟩
  | hostHalt h hr => exact .inr ⟨rfl, rfl, .inr (.inl hr)⟩
  | opcodeFault h hr hf => exact .inr ⟨rfl, rfl, .inr (.inr ⟨_, rfl⟩)⟩
  | argumentFault h hr ho hf =>
    exact .inr ⟨kept_pastOpcode (p := .reg .pc) (by decide) s, rfl, .inr (.inr ⟨_, rfl⟩)⟩
  | completed h hr ho hi hu =>
    have hpc := kept_of_final (Act.final_of_ok hu) (by decide) (not_mayChange_pc _)
    obtain ⟨-, hfault⟩ := kept_of_final (Act.final_of_ok hu) (by decide) (not_mayChange_run _)
    exact .inl ⟨h, hr, hfault, (State.retire_reg ..).trans (by rw [if_pos rfl, hpc])⟩
  | faulted h hr ho hi hu =>
    have hpc := kept_of_final (Act.final_of_error hu) (by decide) (not_mayChange_pc _)
    exact .inr ⟨hpc, rfl, .inr (.inr ⟨_, rfl⟩)⟩

/-- Settles O43: no end of a step writes what only the host writes. -/
theorem onlyTheHostChangesTheRegions : Obligations.OnlyTheHostChangesTheRegions := by
  unfold Obligations.OnlyTheHostChangesTheRegions
  intro s t h
  suffices Part.host.Kept s t from this
  cases stepEnd_of_step h with
  | halted => exact .refl _ _
  | hostHalt => exact ⟨rfl, rfl, rfl, rfl⟩
  | opcodeFault => exact kept_takeFault (by decide) _ _ _
  | argumentFault =>
    exact (kept_pastOpcode (by decide) s).trans (kept_takeFault (by decide) _ _ _)
  | completed _ _ _ _ hu =>
    exact (kept_of_final (Act.final_of_ok hu) (by decide) (not_mayChange_host _)).trans
      (kept_retire (by decide) (by decide) _ _ _)
  | faulted _ _ _ _ hu =>
    exact (kept_of_final (Act.final_of_error hu) (by decide) (not_mayChange_host _)).trans
      (kept_takeFault (by decide) _ _ _)

/-! ### SP follows `msp` (10_state.md R32) -/

/-- An action that, where it answers, leaves SP equal to `msp`. -/
def Act.Mirrors {α : Type} (x : Act α) : Prop :=
  ∀ s a t, x s = .ok a t → t.reg .sp = wrap32 t.msp

theorem mirrorSp_mirrors : Act.Mirrors mirrorSp := by
  intro s a t h
  rw [mirrorSp_apply] at h
  cases h
  exact State.reg_setReg_self _ _ _

/-- Statements that end with a mirror mirror. -/
theorem Act.Mirrors.last {α β : Type} {x : Act α} {k : α → Act β} (hk : ∀ a, (k a).Mirrors) :
    Act.Mirrors (x >>= k) := by
  intro s b t h
  rw [Act.bind_apply] at h
  cases hx : x s with
  | ok a u => exact hk a u b t (by rwa [hx] at h)
  | error f u => rw [hx] at h; cases h

/-- A mirror lasts through statements that keep SP and `msp`. -/
theorem Act.Mirrors.andThen {α β : Type} {P : Part → Prop} {x : Act α} {k : α → Act β}
    (hx : x.Mirrors) (hk : ∀ a, (k a).ChangesOnly P) (hsp : ¬ P (.reg .sp)) (hs : ¬ P .stack) :
    Act.Mirrors (x >>= k) := by
  intro s b t h
  rw [Act.bind_apply] at h
  cases hu : x s with
  | ok a u =>
    have hkept := hk a u
    rw [Act.final_of_ok (by rwa [hu] at h)] at hkept
    obtain ⟨hmsp, -⟩ := hkept .stack hs
    have hreg : t.reg .sp = u.reg .sp := hkept (.reg .sp) hsp
    rw [hreg, hmsp]
    exact hx s a u hu
  | error f u => rw [hu] at h; cases h

theorem thenGoOn_mirrors {x : Act Unit} (hx : x.Mirrors) : (thenGoOn x).Mirrors :=
  hx.andThen (P := fun _ => False) (fun _ => changesOnly_pure _) id id

theorem cpuPush_mirrors (v : Word) : (cpuPush v).Mirrors := .last fun _ => mirrorSp_mirrors

theorem cpuPop_mirrors : cpuPop.Mirrors :=
  .last fun _ => .last fun _ =>
    mirrorSp_mirrors.andThen (P := fun _ => False) (fun _ => changesOnly_pure _) id id

/-- POP_REG writes its destination after the mirror, and User cannot write SP (10_state.md R24). -/
theorem popRegBody_mirrors (rd : Reg) : (popRegBody rd).Mirrors :=
  cpuPop_mirrors.andThen (P := fun p => ∃ r, p = .reg r ∧ isPrivileged r = false)
    (fun _ => changesOnly_writeReg fun ha => ⟨rd, rfl, by simpa using ha⟩) nofun nofun

theorem swapBody_mirrors : swapBody.Mirrors :=
  .last fun _ => .last fun _ => .last fun _ => .last fun _ => .last fun _ => .last fun _ =>
    mirrorSp_mirrors

theorem callBody_mirrors (target : Word) : (callBody target).Mirrors :=
  .last fun _ => .last fun _ => .last fun _ => .last fun _ => .last fun _ =>
    mirrorSp_mirrors.andThen (P := (· = .reg .ip)) (fun _ => changesOnly_writeReg fun _ => rfl)
      (by decide) (by decide)

theorem retBody_mirrors : retBody.Mirrors :=
  .last fun _ => .last fun _ => .last fun _ => .last fun _ => .last fun _ => .last fun _ =>
    .last fun _ => .last fun _ => .last fun _ => .last fun _ => .last fun _ => mirrorSp_mirrors

/-- The statements of every stack instruction leave SP equal to `msp` where they complete. -/
theorem statements_mirror {i : Instr} (h : i.op ∈ stackOps) : (statements i).Mirrors := by
  cases i
  case pushLit lit => exact thenGoOn_mirrors (cpuPush_mirrors lit)
  case pushReg r => exact thenGoOn_mirrors (.last fun v => cpuPush_mirrors v)
  case popReg r => exact thenGoOn_mirrors (popRegBody_mirrors r)
  case swap => exact thenGoOn_mirrors swapBody_mirrors
  case callLit a => exact thenGoOn_mirrors (callBody_mirrors a)
  case ret => exact thenGoOn_mirrors retBody_mirrors
  all_goals simp [stackOps, Instr.op] at h

/-- A step that ends with no fault recorded keeps SP and `msp`, or ends with SP equal to `msp`. -/
theorem step_mirrors {s t : State} (h : step s = .next t) (ht : t.fault = none) :
    s.fault = none ∧ ((t.msp = s.msp ∧ t.reg .sp = s.reg .sp) ∨ t.reg .sp = wrap32 t.msp) := by
  cases stepEnd_of_step h with
  | halted => exact ⟨ht, .inl ⟨rfl, rfl⟩⟩
  | hostHalt => exact ⟨ht, .inl ⟨rfl, rfl⟩⟩
  | opcodeFault => cases ht
  | argumentFault => cases ht
  | @completed _ _ o i q u _ _ hu =>
    obtain ⟨-, hfault⟩ := kept_of_final (Act.final_of_ok hu) (by decide) (not_mayChange_run _)
    have hsp : (u.retire (opcodeAddress s) q).reg .sp = u.reg .sp :=
      kept_retire (p := .reg .sp) (by decide) (by decide) u _ q
    refine ⟨hfault.symm.trans ht, ?_⟩
    rw [hsp, State.retire_msp]
    by_cases hi : i.op ∈ stackOps
    · exact .inr (statements_mirror hi _ _ _ hu)
    · have hfinal := Act.final_of_ok hu
      obtain ⟨hmsp, -⟩ :=
        kept_of_final (p := .stack) hfinal (by decide) (not_mayChange hi nofun)
      exact .inl ⟨hmsp, kept_of_final (p := .reg .sp) hfinal (by decide) (not_mayChange hi nofun)⟩
  | faulted => cases ht

/-- Settles O41: a stack instruction ends with the mirror, and no other one writes SP or `msp`. -/
theorem spFollowsTheStackPointer : Obligations.SpFollowsTheStackPointer := by
  unfold Obligations.SpFollowsTheStackPointer
  refine ⟨⟨rfl, rfl⟩, fun s t h ht => ?_⟩
  obtain ⟨hs, hmirror⟩ := step_mirrors h ht
  refine ⟨hmirror, fun hinv _ => ?_⟩
  obtain ⟨hmsp, hsp⟩ | hsp := hmirror
  · have hcfg : t.cfg = s.cfg := (onlyTheHostChangesTheRegions s t h).1
    rw [hsp, hmsp, hcfg]
    exact hinv hs
  · exact .inl hsp

/-! ### The register write gate (10_state.md R24) -/

theorem isPrivileged_iff (r : Reg) : isPrivileged r = true ↔ r ∈ [Reg.ip, .sp, .fp, .fl, .pc] := by
  cases r <;> decide

/-- The gate refuses exactly a User write of a privileged register. -/
theorem writeAllowed_iff (ctx : Context) (r : Reg) :
    writeAllowed ctx r = true ↔ ¬ (r ∈ [Reg.ip, .sp, .fp, .fl, .pc] ∧ ctx = .user) := by
  rw [← isPrivileged_iff]
  cases ctx <;> simp

/-- Settles O49: one case for each answer of the gate. -/
theorem writeGateGuardsPrivilegedRegisters : Obligations.WriteGateGuardsPrivilegedRegisters := by
  unfold Obligations.WriteGateGuardsPrivilegedRegisters
  refine ⟨isPrivileged_iff, fun ctx r v s => ?_⟩
  rw [writeReg_apply]
  split
  case isTrue h => exact if_neg fun ha => (writeAllowed_iff ctx r).mp ha h
  case isFalse h =>
    exact ⟨s.setReg r v, if_pos ((writeAllowed_iff ctx r).mpr h), State.reg_setReg_self s r v,
      fun _ hr => State.reg_setReg_of_ne s v hr, rfl⟩

end Sys2Proof.Machine
end

section
/-! PROOFS. What a step does to the memory manager, found in one pass over the instructions, and the
statements of 20_memory.md and of the host's operations on memory. -/

namespace Sys2Proof.Machine

/-! ### Effects on the memory manager -/

/-- The state with another memory. -/
def State.withMem (s : State) (m : Memory) : State := { s with mem := m }

@[simp] theorem State.withMem_mem (s : State) (m : Memory) : (s.withMem m).mem = m := rfl
@[simp] theorem State.withMem_cfg (s : State) (m : Memory) : (s.withMem m).cfg = s.cfg := rfl
@[simp] theorem State.withMem_msp (s : State) (m : Memory) : (s.withMem m).msp = s.msp := rfl
@[simp] theorem State.withMem_stackTypes (s : State) (m : Memory) :
    (s.withMem m).stackTypes = s.stackTypes := rfl
@[simp] theorem State.withMem_reg (s : State) (m : Memory) (r : Reg) :
    (s.withMem m).reg r = s.reg r := rfl
@[simp] theorem State.withMem_halted (s : State) (m : Memory) :
    (s.withMem m).halted = s.halted := rfl
@[simp] theorem State.withMem_haltRequested (s : State) (m : Memory) :
    (s.withMem m).haltRequested = s.haltRequested := rfl
@[simp] theorem State.withMem_resolve (s : State) (m : Memory) (a : Int) :
    (s.withMem m).resolve a = s.resolve a := rfl
@[simp] theorem State.withMem_writeFault (s : State) (m : Memory) (a : Int) (n : Nat)
    (ctx : Context) : (s.withMem m).writeFault a n ctx = s.writeFault a n ctx := rfl

/-- The memory manager's state, and what only the host writes, are the same in both states. -/
def ManagerKept (s t : State) : Prop :=
  t.mem = s.mem ∧ t.msp = s.msp ∧ t.stackTypes = s.stackTypes ∧ hostKept s t

/-- An update of the CPU's own state, which does not look at memory. -/
def CpuUpdate (g : State → State) : Prop :=
  ∀ s, ManagerKept s (g s) ∧ ∀ m, g (s.withMem m) = (g s).withMem m

/-- A push has room and may write (20_memory.md R75). -/
def CanPush (s : State) : Prop :=
  (s.cfg.stackStart : Int) ≤ s.msp - 4 ∧ s.writeFault (s.msp - 4) 4 .system = none

/-- A pop finds a slot and, with debug markers, its marker (20_memory.md R76). -/
def CanPop (s : State) : Prop :=
  s.msp + 4 ≤ s.cfg.stackEnd ∧
    (s.cfg.debugStackTypes = true → s.stackTypes.getLast? = some .int)

/-- A drop goes to a slot boundary of the stack, with the markers to match (20_memory.md R81). -/
def CanDropTo (s : State) (a : Int) : Prop :=
  (s.cfg.stackStart : Int) ≤ a ∧ a ≤ s.cfg.stackEnd ∧ (s.cfg.stackEnd - a) % 4 = 0 ∧
    (s.cfg.debugStackTypes = true →
      0 ≤ dropCount s.msp a ∧ dropCount s.msp a ≤ s.stackTypes.length)

/-- The changes a statement can make, with what each does to another memory in the state's place. -/
inductive Effect (s : State) (m : Memory) : State → Memory → Prop where
  | cpu {t : State} (h : ManagerKept s t) : Effect s m t m
  | store {a : Int} {v : Word} (h : s.writeFault a 4 .user = none) :
      Effect s m (s.storeBytes a.toNat (bytesLe32 v)) (m.writeBytes a.toNat (bytesLe32 v))
  | push {v : Word} (h : CanPush s) :
      Effect s m (s.storeBytes (s.msp - 4).toNat (bytesLe32 v)).pushed
        (m.writeBytes (s.msp - 4).toNat (bytesLe32 v))
  | pop (h : CanPop s) : Effect s m s.popped m
  | drop {a : Int} (h : CanDropTo s a) : Effect s m (s.droppedTo a) m

/-- A relation between a state and another memory that every effect keeps, and under which the reads
of User and those of the stack's top slot cannot tell that memory from the state's own. -/
structure Simulation (R : State → Memory → Prop) : Prop where
  keep {s t : State} {m m' : Memory} : R s m → Effect s m t m' → R t m'
  userRead {s : State} {m : Memory} (a : Int) (n : Nat) (fetch : Bool) : R s m →
    (s.withMem m).memRead a n .user fetch = s.memRead a n .user fetch
  topRead {s : State} {m : Memory} : R s m → CanPop s →
    (s.withMem m).memRead s.msp 4 .system false = s.memRead s.msp 4 .system false

/-- The same end of an action, in states that differ in memory alone and are related. -/
inductive SameResult (R : State → Memory → Prop) {α : Type} :
    EStateM.Result Fault State α → EStateM.Result Fault State α → Prop where
  | ok {a : α} {t : State} {m : Memory} (h : R t m) : SameResult R (.ok a t) (.ok a (t.withMem m))
  | error {f : Fault} {t : State} {m : Memory} (h : R t m) :
      SameResult R (.error f t) (.error f (t.withMem m))

theorem sameResult_ite {R : State → Memory → Prop} {α : Type} {p : Prop} [Decidable p]
    {x y x' y' : EStateM.Result Fault State α} (ht : p → SameResult R x x')
    (hf : ¬ p → SameResult R y y') :
    SameResult R (if p then x else y) (if p then x' else y') := by
  by_cases h : p
  · rw [if_pos h, if_pos h]
    exact ht h
  · rw [if_neg h, if_neg h]
    exact hf h

/-- The action runs alike on a state and on the state with a related memory. -/
def Act.Tracks {α : Type} (R : State → Memory → Prop) (x : Act α) : Prop :=
  ∀ s m, R s m → SameResult R (x s) (x (s.withMem m))

section Tracks

variable {R : State → Memory → Prop} {α β : Type}

theorem tracks_pure (a : α) : Act.Tracks R (pure a : Act α) := fun _ _ h => .ok h

theorem tracks_getReg (r : Reg) : Act.Tracks R (getReg r) := fun _ _ h => .ok h

theorem tracks_require (b : Bool) (f : Fault) : Act.Tracks R (require b f) := fun _ _ h => by
  cases b with
  | true => exact .ok h
  | false => exact .error h

theorem Act.Tracks.bind {x : Act α} {k : α → Act β} (hx : x.Tracks R)
    (hk : ∀ a, (k a).Tracks R) : Act.Tracks R (x >>= k) := by
  intro s m h
  have hr := hx s m h
  rw [Act.bind_apply, Act.bind_apply]
  generalize x s = r, x (s.withMem m) = r' at hr ⊢
  cases hr with
  | ok h => exact hk _ _ _ h
  | error h => exact .error h

/-- Statements that look at the state, but not at its memory. -/
theorem tracks_theState_bind {k : State → Act β} (hm : ∀ s m, k (s.withMem m) = k s)
    (hk : ∀ s, (k s).Tracks R) : Act.Tracks R (theState >>= k) := by
  intro s m h
  rw [theState_bind, theState_bind, hm]
  exact hk s s m h

/-- An expression's value depends on the registers alone (41_data_movement.md R169). -/
theorem tracks_expressionAddress (e : List Byte) : Act.Tracks R (expressionAddress e) := by
  intro s m h
  rw [expressionAddress_apply, expressionAddress_apply,
    show (s.withMem m).reg = s.reg from rfl]
  cases evalExpression s.reg e with
  | some a => exact .ok h
  | none => exact .error h

theorem tracks_thenGoOn {x : Act Unit} (hx : x.Tracks R) : (thenGoOn x).Tracks R :=
  hx.bind fun _ => tracks_pure false

/-! ### Updates of the CPU -/

theorem cpuUpdate_setReg (r : Reg) (v : Word) : CpuUpdate fun s => s.setReg r v :=
  fun _ => ⟨⟨rfl, rfl, rfl, rfl, rfl, rfl, rfl⟩, fun _ => rfl⟩

theorem cpuUpdate_counted (n : Int) : CpuUpdate fun s => s.counted n :=
  fun _ => ⟨⟨rfl, rfl, rfl, rfl, rfl, rfl, rfl⟩, fun _ => rfl⟩

theorem cpuUpdate_entered : CpuUpdate State.entered :=
  fun _ => ⟨⟨rfl, rfl, rfl, rfl, rfl, rfl, rfl⟩, fun _ => rfl⟩

theorem cpuUpdate_returned (size n : Word) : CpuUpdate fun s => s.returned size n :=
  fun _ => ⟨⟨rfl, rfl, rfl, rfl, rfl, rfl, rfl⟩, fun _ => rfl⟩

theorem cpuUpdate_emitted (e : DeviceEvent) : CpuUpdate fun s => s.emitted e :=
  fun _ => ⟨⟨rfl, rfl, rfl, rfl, rfl, rfl, rfl⟩, fun _ => rfl⟩

theorem cpuUpdate_advance (i : Instr) : CpuUpdate fun s => s.advance i :=
  fun _ => ⟨⟨rfl, rfl, rfl, rfl, rfl, rfl, rfl⟩, fun _ => rfl⟩

theorem cpuUpdate_pastOpcode : CpuUpdate State.pastOpcode :=
  fun _ => ⟨⟨rfl, rfl, rfl, rfl, rfl, rfl, rfl⟩, fun _ => rfl⟩

theorem cpuUpdate_retire (a0 : Int) (q : Bool) : CpuUpdate fun s => s.retire a0 q :=
  fun _ => ⟨⟨rfl, rfl, rfl, rfl, rfl, rfl, rfl⟩, fun _ => rfl⟩

theorem cpuUpdate_takeFault (a0 : Int) (f : Fault) : CpuUpdate fun s => s.takeFault a0 f :=
  fun _ => ⟨⟨rfl, rfl, rfl, rfl, rfl, rfl, rfl⟩, fun _ => rfl⟩

theorem cpuUpdate_halt : CpuUpdate fun s => { s with halted := true } :=
  fun _ => ⟨⟨rfl, rfl, rfl, rfl, rfl, rfl, rfl⟩, fun _ => rfl⟩

namespace Simulation

variable (hR : Simulation R)
include hR

theorem cpu {s : State} {m : Memory} {g : State → State} (h : R s m) (hg : CpuUpdate g) :
    R (g s) m := hR.keep h (.cpu (hg s).1)

theorem tracks_update {g : State → State} (hg : CpuUpdate g) : Act.Tracks R (update g) := by
  intro s m h
  rw [update_apply, update_apply, (hg s).2]
  exact .ok (hR.cpu h hg)

theorem tracks_writeReg (ctx : Context) (r : Reg) (v : Word) : Act.Tracks R (writeReg ctx r v) :=
  (tracks_require _ _).bind fun _ => hR.tracks_update (cpuUpdate_setReg r v)

theorem tracks_loadUser (a : Int) : Act.Tracks R (loadInt a .user) := by
  intro s m h
  rw [loadInt_apply, loadInt_apply, hR.userRead a 4 false h]
  cases s.memRead a 4 .user false with
  | ok bs => exact .ok h
  | error f => exact .error h

theorem tracks_storeUser (a : Int) (v : Word) : Act.Tracks R (storeInt a v .user) := by
  intro s m h
  rw [storeInt_apply, storeInt_apply, State.withMem_writeFault]
  cases hf : s.writeFault a 4 .user with
  | some f => exact .error h
  | none => exact .ok (hR.keep h (.store hf))

/-! ### The stack's operations -/

theorem tracks_stackPush (v : Word) : Act.Tracks R (stackPush v) := by
  intro s m h
  simp only [stackPush_apply, State.withMem_cfg, State.withMem_msp, State.withMem_writeFault]
  refine sameResult_ite (fun hroom => ?_) fun _ => .error h
  cases hf : s.writeFault (s.msp - 4) 4 .system with
  | some f => exact .error h
  | none => exact .ok (hR.keep h (.push ⟨hroom, hf⟩))

theorem tracks_stackPop : Act.Tracks R stackPop := by
  intro s m h
  simp only [stackPop_apply, State.withMem_cfg, State.withMem_msp, State.withMem_stackTypes]
  refine sameResult_ite (fun hslot => ?_) fun _ => .error h
  refine sameResult_ite (fun _ => .error h) fun hmark => ?_
  have hpop : CanPop s := ⟨hslot, fun hd => by simpa [hd] using hmark⟩
  rw [hR.topRead h hpop]
  cases s.memRead s.msp 4 .system false with
  | error f => exact .error h
  | ok bs => exact .ok (hR.keep h (.pop hpop))

theorem tracks_stackDropTo (a : Int) : Act.Tracks R (stackDropTo a) := by
  intro s m h
  simp only [stackDropTo_apply, State.withMem_cfg, State.withMem_msp, State.withMem_stackTypes]
  refine sameResult_ite (fun _ => .error h) fun hlow => ?_
  refine sameResult_ite (fun _ => .error h) fun hslot => ?_
  refine sameResult_ite (fun _ => .error h) fun hmark => ?_
  have hdrop : CanDropTo s a := by
    refine ⟨by omega, by omega, by omega, fun hd => ?_⟩
    simp only [hd, true_and] at hmark
    omega
  exact .ok (hR.keep h (.drop hdrop))

theorem tracks_mirrorSp : Act.Tracks R mirrorSp :=
  tracks_theState_bind (fun _ _ => rfl) fun _ => hR.tracks_writeReg _ _ _

theorem tracks_pushCounted (v : Word) : Act.Tracks R (pushCounted v) :=
  (hR.tracks_stackPush v).bind fun _ => hR.tracks_update (cpuUpdate_counted 4)

theorem tracks_cpuPush (v : Word) : Act.Tracks R (cpuPush v) :=
  (hR.tracks_pushCounted v).bind fun _ => hR.tracks_mirrorSp

theorem tracks_cpuPop : Act.Tracks R cpuPop :=
  hR.tracks_stackPop.bind fun v => (hR.tracks_update (cpuUpdate_counted (-4))).bind fun _ =>
    hR.tracks_mirrorSp.bind fun _ => tracks_pure v

theorem tracks_swapBody : Act.Tracks R swapBody :=
  tracks_theState_bind (fun _ _ => rfl) fun _ => (tracks_require _ _).bind fun _ =>
    hR.tracks_stackPop.bind fun a => hR.tracks_stackPop.bind fun b =>
      (hR.tracks_stackPush a).bind fun _ => (hR.tracks_stackPush b).bind fun _ =>
        hR.tracks_mirrorSp

theorem tracks_pushRegs (rs : List Reg) : Act.Tracks R (pushRegs rs) := by
  induction rs with
  | nil => exact tracks_pure ()
  | cons r rs ih =>
    exact (tracks_getReg r).bind fun v => (hR.tracks_pushCounted v).bind fun _ => ih

theorem tracks_popRegs (rs : List Reg) : Act.Tracks R (popRegs rs) := by
  induction rs with
  | nil => exact tracks_pure ()
  | cons r rs ih =>
    exact hR.tracks_stackPop.bind fun v => (hR.tracks_writeReg _ r v).bind fun _ => ih

theorem tracks_discardSlots (n : Nat) : Act.Tracks R (discardSlots n) := by
  induction n with
  | zero => exact tracks_pure ()
  | succ n ih => exact hR.tracks_stackPop.bind fun _ => ih

theorem tracks_pushFrameSize : Act.Tracks R pushFrameSize :=
  tracks_theState_bind (fun _ _ => rfl) fun _ => hR.tracks_stackPush _

theorem tracks_enterFrame : Act.Tracks R enterFrame :=
  tracks_theState_bind (fun _ _ => rfl) fun _ => (hR.tracks_writeReg _ _ _).bind fun _ =>
    hR.tracks_update cpuUpdate_entered

theorem tracks_callBody (target : Word) : Act.Tracks R (callBody target) :=
  (tracks_getReg .ip).bind fun ra => (hR.tracks_pushRegs savedRegs).bind fun _ =>
    (hR.tracks_pushCounted ra).bind fun _ => hR.tracks_pushFrameSize.bind fun _ =>
      hR.tracks_enterFrame.bind fun _ => hR.tracks_mirrorSp.bind fun _ =>
        hR.tracks_writeReg _ _ _

theorem tracks_retBody : Act.Tracks R retBody :=
  tracks_theState_bind (fun _ _ => rfl) fun _ => (tracks_require _ _).bind fun _ =>
    (tracks_getReg .fp).bind fun _ => (hR.tracks_stackDropTo _).bind fun _ =>
      hR.tracks_stackPop.bind fun size => (hR.tracks_popRegs _).bind fun _ =>
        hR.tracks_stackPop.bind fun n => (tracks_require _ _).bind fun _ =>
          (hR.tracks_discardSlots _).bind fun _ => (hR.tracks_writeReg _ _ _).bind fun _ =>
            (hR.tracks_update (cpuUpdate_returned size n)).bind fun _ => hR.tracks_mirrorSp

/-! ### The other families -/

theorem tracks_loadPointer (rp : Reg) : Act.Tracks R (loadPointer rp) :=
  (tracks_getReg rp).bind fun _ => hR.tracks_loadUser _

theorem tracks_loadExpression (e : List Byte) : Act.Tracks R (loadExpression e) :=
  (tracks_expressionAddress e).bind fun _ => hR.tracks_loadUser _

theorem tracks_setArith (w : Int) : Act.Tracks R (setArith w) :=
  (hR.tracks_writeReg _ _ _).bind fun _ =>
    tracks_theState_bind (fun _ _ => rfl) fun _ => hR.tracks_writeReg _ _ _

theorem tracks_division (f : Int → Int → Int) (n d : Word) : Act.Tracks R (division f n d) :=
  (tracks_require _ _).bind fun _ => hR.tracks_setArith _

theorem tracks_jumpIf (rel : Relation) (o : Op) (v target : Word) :
    Act.Tracks R (jumpIf rel o v target) :=
  tracks_theState_bind (fun _ _ => rfl) fun s => by
    cases relationHolds rel v (s.reg .ac) with
    | true => exact hR.tracks_writeReg _ _ _
    | false => exact tracks_pure ()

theorem tracks_deviceCall (kind : DeviceKind) (key v : Word) :
    Act.Tracks R (deviceCall kind key v) :=
  tracks_theState_bind (fun _ _ => rfl) fun _ => (tracks_require _ _).bind fun _ =>
    hR.tracks_update (cpuUpdate_emitted _)

theorem tracks_loadInto {source : Act Word} (h : source.Tracks R) (rd : Reg) :
    Act.Tracks R (loadInto source rd) := h.bind fun v => hR.tracks_writeReg _ rd v

/-! ### Instructions and steps -/

theorem tracks_statements (i : Instr) : Act.Tracks R (statements i) := by
  cases i
  case movLitReg lit r => exact tracks_thenGoOn (hR.tracks_writeReg _ _ _)
  case movRegReg ra rb =>
    exact tracks_thenGoOn <| (tracks_getReg ra).bind fun v => hR.tracks_writeReg _ _ v
  case movLitMem lit a => exact tracks_thenGoOn (hR.tracks_storeUser _ _)
  case movRegMem r a =>
    exact tracks_thenGoOn <| (tracks_getReg r).bind fun v => hR.tracks_storeUser _ v
  case movMemReg a r => exact tracks_thenGoOn (hR.tracks_loadInto (hR.tracks_loadUser _) r)
  case movRegPtrReg rp r => exact tracks_thenGoOn (hR.tracks_loadInto (hR.tracks_loadPointer rp) r)
  case movLitExpMemReg e r =>
    exact tracks_thenGoOn (hR.tracks_loadInto (hR.tracks_loadExpression e) r)
  case addLitReg lit r | subLitReg lit r | mulLitReg lit r =>
    exact tracks_thenGoOn <| (tracks_getReg r).bind fun _ => hR.tracks_setArith _
  case addRegReg ra rb | subRegReg ra rb | mulRegReg ra rb =>
    exact tracks_thenGoOn <| (tracks_getReg ra).bind fun _ => (tracks_getReg rb).bind fun _ =>
      hR.tracks_setArith _
  case divLitReg lit r | modLitReg lit r =>
    exact tracks_thenGoOn <| (tracks_getReg r).bind fun _ => hR.tracks_division _ _ _
  case divRegReg ra rb | modRegReg ra rb =>
    exact tracks_thenGoOn <| (tracks_getReg ra).bind fun _ => (tracks_getReg rb).bind fun _ =>
      hR.tracks_division _ _ _
  case jmpNotEq | jeqLit | jltLit | jgtLit | jleLit | jgeLit =>
    exact tracks_thenGoOn (hR.tracks_jumpIf _ _ _ _)
  case jneReg r a | jeqReg r a | jltReg r a | jgtReg r a | jleReg r a | jgeReg r a =>
    exact tracks_thenGoOn <| (tracks_getReg r).bind fun _ => hR.tracks_jumpIf _ _ _ _
  case pushLit lit => exact tracks_thenGoOn (hR.tracks_cpuPush lit)
  case pushReg r => exact tracks_thenGoOn <| (tracks_getReg r).bind fun v => hR.tracks_cpuPush v
  case popReg r => exact tracks_thenGoOn <| hR.tracks_cpuPop.bind fun v => hR.tracks_writeReg _ r v
  case swap => exact tracks_thenGoOn hR.tracks_swapBody
  case callLit a => exact tracks_thenGoOn (hR.tracks_callBody a)
  case ret => exact tracks_thenGoOn hR.tracks_retBody
  case hlt => exact tracks_pure true
  case outRegLit r lit =>
    exact tracks_thenGoOn <| (tracks_getReg r).bind fun _ => hR.tracks_deviceCall _ _ _
  case intLit lit =>
    exact tracks_thenGoOn <| (tracks_getReg .ac).bind fun _ => hR.tracks_deviceCall _ _ _

/-- The same next state, but for its memory. -/
def SameNext (R : State → Memory → Prop) (o o' : Host.Outcome State Fault Refusal) : Prop :=
  ∃ t m, o = .next t ∧ o' = .next (t.withMem m) ∧ R t m

theorem sameNext_exec {s : State} {m : Memory} (h : R s m) (i : Instr) :
    SameNext R (exec i s) (exec i (s.withMem m)) := by
  rw [exec_eq_cycle, exec_eq_cycle, cycle, cycle]
  have hr := hR.tracks_statements i _ m (hR.cpu h (cpuUpdate_advance i))
  rw [← (cpuUpdate_advance i s).2 m] at hr
  generalize statements i (s.advance i) = r,
    statements i ((s.withMem m).advance i) = r' at hr ⊢
  cases hr with
  | ok h => exact ⟨_, _, rfl, rfl, hR.cpu h (cpuUpdate_retire _ _)⟩
  | error h => exact ⟨_, _, rfl, rfl, hR.cpu h (cpuUpdate_takeFault _ _)⟩

theorem fetchReader_withMem {s : State} {m : Memory} (h : R s m) (a : Int) :
    (s.withMem m).fetchReader a = s.fetchReader a :=
  funext fun _ => funext fun _ => hR.userRead _ _ _ h

theorem sameNext_step {s : State} {m : Memory} (h : R s m) :
    SameNext R (step s) (step (s.withMem m)) := by
  have hop : (s.withMem m).fetchOp = s.fetchOp := by
    rw [State.fetchOp, State.fetchOp, State.withMem_reg, hR.fetchReader_withMem h,
      State.withMem_cfg]
  have hrest : (s.withMem m).fetchRest = s.fetchRest := by
    funext o
    rw [State.fetchRest, State.fetchRest, State.withMem_reg, hR.fetchReader_withMem h,
      State.withMem_cfg]
  simp only [step, hop, hrest, State.withMem_halted, State.withMem_haltRequested]
  split
  case isTrue => exact ⟨_, _, rfl, rfl, h⟩
  case isFalse =>
    split
    case isTrue => exact ⟨_, _, rfl, rfl, hR.cpu h cpuUpdate_halt⟩
    case isFalse =>
      cases s.fetchOp with
      | error f => exact ⟨_, _, rfl, rfl, hR.cpu h (cpuUpdate_takeFault _ f)⟩
      | ok o =>
        dsimp only
        cases s.fetchRest o with
        | error f =>
          exact ⟨_, _, rfl, rfl,
            hR.cpu (hR.cpu h cpuUpdate_pastOpcode) (cpuUpdate_takeFault _ f)⟩
        | ok i => exact hR.sameNext_exec h i

end Simulation
end Tracks

/-! ### What every effect keeps -/

theorem Effect.hostKept {s t : State} {m m' : Memory} (h : Effect s m t m') : hostKept s t := by
  cases h with
  | cpu h =>
    obtain ⟨-, -, -, hhost⟩ := h
    exact hhost
  | _ => exact ⟨rfl, rfl, rfl, rfl⟩

/-- A word may be stored at an address: for User by the region's flags, for a push also by the
stack's bounds (20_memory.md R67, R75). -/
def CanStoreAt (s : State) (a : Nat) : Prop :=
  ∃ r ∈ s.regions, r.start ≤ a ∧ a + 4 ≤ r.stop ∧
    (r.flags.publicWrite = true ∨
      (r.flags.write = true ∧ s.cfg.stackStart ≤ a ∧ (a : Int) + 4 = s.msp))

theorem canStoreAt_of_writeFault {s : State} {a : Int} {ctx : Context}
    (h : s.writeFault a 4 ctx = none)
    (hctx : ctx = .system → (s.cfg.stackStart : Int) ≤ a ∧ a + 4 = s.msp) :
    CanStoreAt s a.toNat := by
  obtain ⟨r, hr, hstop, hp⟩ := State.writeFault_none.mp h
  obtain ⟨hmem, hstart, -, -⟩ := State.resolve_some hr
  refine ⟨r, hmem, by omega, by omega, ?_⟩
  cases ctx with
  | user => exact .inl hp
  | system =>
    obtain ⟨hlow, hmsp⟩ := hctx rfl
    exact .inr ⟨hp, by omega, by omega⟩

/-- An effect leaves both memories, or stores one word in both. -/
theorem Effect.mem_cases {s t : State} {m m' : Memory} (h : Effect s m t m') :
    (t.mem = s.mem ∧ m' = m) ∨
      ∃ a v, CanStoreAt s a ∧ t.mem = s.mem.writeBytes a (bytesLe32 v) ∧
        m' = m.writeBytes a (bytesLe32 v) := by
  cases h with
  | cpu h => exact .inl ⟨h.1, rfl⟩
  | store h => exact .inr ⟨_, _, canStoreAt_of_writeFault h nofun, rfl, rfl⟩
  | push h =>
    obtain ⟨hroom, hf⟩ := h
    exact .inr ⟨_, _, canStoreAt_of_writeFault hf fun _ => ⟨hroom, by omega⟩, rfl, rfl⟩
  | pop => exact .inl ⟨rfl, rfl⟩
  | drop => exact .inl ⟨rfl, rfl⟩

/-- What every effect on a state keeps, every step keeps. -/
theorem step_keeps {I : State → Prop} {s t : State}
    (hI : ∀ {u v m}, I u → Effect u u.mem v m → I v) (h : step s = .next t) (hs : I s) : I t := by
  have hR : Simulation fun u m => m = u.mem ∧ I u :=
    { keep := by
        rintro u v m m' ⟨rfl, hu⟩ he
        refine ⟨?_, hI hu he⟩
        obtain ⟨hmem, rfl⟩ | ⟨a, w, -, hmem, rfl⟩ := he.mem_cases <;> exact hmem.symm
      userRead := by
        rintro u m a n fetch ⟨rfl, -⟩
        rfl
      topRead := by
        rintro u m ⟨rfl, -⟩ -
        rfl }
  obtain ⟨u, m, hu, -, -, hIu⟩ := hR.sameNext_step ⟨rfl, hs⟩
  exact Host.Outcome.next.inj (hu.symm.trans h) ▸ hIu

/-! ### The invariants of memory and of the stack -/

theorem RegionsInv.congr {s t : State} (hr : t.regions = s.regions) (hl : t.memLen = s.memLen)
    (h : RegionsInv s) : RegionsInv t := by
  rw [RegionsInv, hr, hl]
  exact h

/-- Bytes stored inside the buffer keep the memory's invariant. -/
theorem memoryInv_writeBytes {s t : State} {a : Nat} {bs : List Byte} (h : MemoryInv s)
    (hmem : t.mem = s.mem.writeBytes a bs) (hlen : s.memLen ≤ t.memLen)
    (hend : a + bs.length ≤ t.memLen) : MemoryInv t := by
  obtain ⟨hwf, hin⟩ := h
  rw [MemoryInv, hmem]
  refine ⟨Memory.writeBytes_wf hwf a bs, fun c hc => ?_⟩
  obtain hc | ⟨-, hc⟩ := Memory.mem_writeBytes hc
  · exact (hin c hc).trans_le hlen
  · omega

theorem Effect.memoryInv {s t : State} {m m' : Memory} (he : Effect s m t m') (h : MemoryInv s)
    (hr : RegionsInv s) : MemoryInv t := by
  obtain ⟨-, -, hlen, -⟩ := he.hostKept
  obtain ⟨hmem, -⟩ | ⟨a, v, ⟨r, hmem, -, hstop, -⟩, hmem', -⟩ := he.mem_cases
  · rw [MemoryInv, hmem, hlen]
    exact h
  · have hin := (hr.1 r hmem).2
    exact memoryInv_writeBytes h hmem' hlen.ge (by rw [hlen, bytesLe32_length]; omega)

/-- Settles O39: no effect stores past a region, and none changes the regions. -/
theorem memoryStaysCanonical : Obligations.MemoryStaysCanonical := by
  unfold Obligations.MemoryStaysCanonical
  intro s t hm hr h
  refine step_keeps (I := fun u => MemoryInv u ∧ RegionsInv u) ?_ h ⟨hm, hr⟩
  rintro u v m ⟨hm, hr⟩ he
  obtain ⟨-, hregions, hlen, -⟩ := he.hostKept
  exact ⟨he.memoryInv hm hr, hr.congr hregions hlen⟩

theorem Effect.stackInv {s t : State} {m m' : Memory} (he : Effect s m t m') (h : StackInv s) :
    StackInv t := by
  obtain ⟨hlow, hhigh, hslot⟩ := h
  cases he with
  | cpu hk =>
    obtain ⟨-, hmsp, -, hcfg, -⟩ := hk
    rw [StackInv, hcfg, hmsp]
    exact ⟨hlow, hhigh, hslot⟩
  | store => exact ⟨hlow, hhigh, hslot⟩
  | push hpush =>
    obtain ⟨hroom, -⟩ := hpush
    exact ⟨hroom, show s.msp - 4 ≤ s.cfg.stackEnd by omega,
      show ((s.cfg.stackEnd : Int) - (s.msp - 4)) % 4 = 0 by omega⟩
  | pop hpop =>
    obtain ⟨hend, -⟩ := hpop
    exact ⟨show (s.cfg.stackStart : Int) ≤ s.msp + 4 by omega, hend,
      show ((s.cfg.stackEnd : Int) - (s.msp + 4)) % 4 = 0 by omega⟩
  | drop hdrop =>
    obtain ⟨ha, hb, hc, -⟩ := hdrop
    exact ⟨ha, hb, hc⟩

theorem State.pushed_stackTypes_length {s : State} (hd : s.pushed.cfg.debugStackTypes = true) :
    s.pushed.stackTypes.length = s.stackTypes.length + 1 := by
  rw [State.pushed_cfg] at hd
  rw [State.pushed_stackTypes, if_pos hd, List.length_append, List.length_singleton]

theorem State.popped_stackTypes_length {s : State} (hd : s.popped.cfg.debugStackTypes = true) :
    s.popped.stackTypes.length = s.stackTypes.length - 1 := by
  rw [State.popped_cfg] at hd
  rw [State.popped_stackTypes, if_pos hd, List.length_dropLast]

theorem State.droppedTo_stackTypes_length {s : State} {a : Int}
    (hd : (s.droppedTo a).cfg.debugStackTypes = true) :
    (s.droppedTo a).stackTypes.length = s.stackTypes.length - (dropCount s.msp a).toNat := by
  rw [State.droppedTo_cfg] at hd
  rw [State.droppedTo_stackTypes, if_pos hd, List.length_take]
  omega

theorem Effect.shadowInv {s t : State} {m m' : Memory} (he : Effect s m t m') (hs : StackInv s)
    (h : ShadowInv s) : ShadowInv t := by
  intro hd
  cases he with
  | cpu hk =>
    obtain ⟨-, hmsp, htypes, hcfg, -⟩ := hk
    rw [hcfg] at hd
    rw [hcfg, hmsp, htypes]
    exact h hd
  | store => exact h hd
  | push =>
    have hlen := h hd
    rw [State.pushed_stackTypes_length hd]
    show 4 * ((s.stackTypes.length + 1 : Nat) : Int) = s.cfg.stackEnd - (s.msp - 4)
    omega
  | pop hpop =>
    have hlen := h hd
    obtain ⟨-, hmark⟩ := hpop
    have hpos : 0 < s.stackTypes.length :=
      List.length_pos_iff.mpr fun e => by simpa [e] using hmark hd
    rw [State.popped_stackTypes_length hd]
    show 4 * ((s.stackTypes.length - 1 : Nat) : Int) = s.cfg.stackEnd - (s.msp + 4)
    omega
  | @drop a hdrop =>
    have hlen := h hd
    obtain ⟨-, -, hslot⟩ := hs
    obtain ⟨-, -, hslot', hmark⟩ := hdrop
    obtain ⟨h0, hcount⟩ := hmark hd
    rw [State.droppedTo_stackTypes_length hd]
    show 4 * ((s.stackTypes.length - (dropCount s.msp a).toNat : Nat) : Int) = s.cfg.stackEnd - a
    rw [dropCount] at *
    omega

/-- Settles O40: each of push, pop and drop moves `msp` by whole slots and the markers with it. -/
theorem stackPointerStaysOnASlot : Obligations.StackPointerStaysOnASlot := by
  unfold Obligations.StackPointerStaysOnASlot
  intro s t hs hd h
  refine step_keeps (I := fun u => StackInv u ∧ ShadowInv u) ?_ h ⟨hs, hd⟩
  rintro u v m ⟨hs, hd⟩ he
  exact ⟨he.stackInv hs, he.shadowInv hs hd⟩

/-! ### Which bytes change -/

/-- The flags of a region that holds the byte allow a change of it. -/
def FlagsAllow (s : State) (b : Nat) : Prop :=
  ∃ r ∈ s.regions, r.start ≤ b ∧ b < r.stop ∧
    (r.flags.publicWrite = true ∨
      (r.flags.write = true ∧ s.cfg.stackStart ≤ b ∧ b < s.cfg.stackEnd))

theorem flagsAllow_congr {s t : State} (h : hostKept s t) (b : Nat) :
    FlagsAllow t b ↔ FlagsAllow s b := by
  obtain ⟨hcfg, hregions, -, -⟩ := h
  rw [FlagsAllow, FlagsAllow, hcfg, hregions]

theorem CanStoreAt.flagsAllow {s : State} {a b : Nat} (h : CanStoreAt s a) (hs : StackInv s)
    (ha : a ≤ b) (hb : b < a + 4) : FlagsAllow s b := by
  obtain ⟨r, hr, hstart, hstop, hflags⟩ := h
  refine ⟨r, hr, by omega, by omega, hflags.imp_right ?_⟩
  rintro ⟨hw, hlow, hmsp⟩
  obtain ⟨-, hhigh, -⟩ := hs
  exact ⟨hw, by omega, by omega⟩

theorem Effect.flagsAllow {s t : State} {m m' : Memory} (he : Effect s m t m') (hwf : s.mem.wf)
    (hs : StackInv s) {b : Nat} (hb : t.mem.read b ≠ s.mem.read b) : FlagsAllow s b := by
  obtain ⟨hmem, -⟩ | ⟨a, v, hstore, hmem, -⟩ := he.mem_cases
  · exact absurd (by rw [hmem]) hb
  · by_contra hno
    refine hb ?_
    rw [hmem, Memory.read_writeBytes_outside hwf]
    by_contra hin
    exact hno (hstore.flagsAllow hs (by omega) (by rw [bytesLe32_length] at hin; omega))

theorem Effect.mem_wf {s t : State} {m m' : Memory} (he : Effect s m t m') (hwf : s.mem.wf) :
    t.mem.wf := by
  obtain ⟨hmem, -⟩ | ⟨a, v, -, hmem, -⟩ := he.mem_cases
  · rw [hmem]
    exact hwf
  · rw [hmem]
    exact Memory.writeBytes_wf hwf _ _

/-- Settles O46: along the effects of the step, each changed byte is one that the flags allow. -/
theorem storesChangeOnlyPermittedBytes : Obligations.StoresChangeOnlyPermittedBytes := by
  unfold Obligations.StoresChangeOnlyPermittedBytes
  intro s t b hwf hs h hb
  have hinv : t.mem.wf ∧ StackInv t ∧ hostKept s t ∧
      (t.mem.read b ≠ s.mem.read b → FlagsAllow s b) := by
    refine step_keeps (I := fun u => u.mem.wf ∧ StackInv u ∧ hostKept s u ∧
      (u.mem.read b ≠ s.mem.read b → FlagsAllow s b)) ?_ h
      ⟨hwf, hs, Part.Kept.refl .host s, fun hne => absurd rfl hne⟩
    rintro u v m ⟨hwf, hs, hhost, hallow⟩ he
    refine ⟨he.mem_wf hwf, he.stackInv hs, Part.Kept.trans (p := .host) hhost he.hostKept,
      fun hne => ?_⟩
    by_cases hu : v.mem.read b = u.mem.read b
    · exact hallow (hu ▸ hne)
    · exact (flagsAllow_congr hhost b).mp (he.flagsAllow hwf hs hu)
  obtain ⟨-, -, -, hallow⟩ := hinv
  exact hallow hb

/-! ### Which bytes are read -/

/-- An address of a region resolves to it, for no other region holds it (20_memory.md R62, R64). -/
theorem resolve_of_mem {s : State} {r : Region} {b : Nat} (h : RegionsInv s) (hr : r ∈ s.regions)
    (hstart : r.start ≤ b) (hstop : b < r.stop) : s.resolve b = some r := by
  obtain ⟨hbounds, hapart⟩ := h
  have hlen : r.stop ≤ s.memLen := (hbounds r hr).2
  have hholds : r.holds b = true := by simp [Region.holds]; omega
  cases hf : s.resolve b with
  | none =>
    rw [State.resolve, if_pos (by omega), List.find?_eq_none] at hf
    exact absurd hholds (hf r hr)
  | some r' =>
    obtain ⟨hr', hstart', hstop', -⟩ := State.resolve_some hf
    by_contra hne
    have hsymm : Std.Symm fun r r' : Region => r.stop ≤ r'.start ∨ r'.stop ≤ r.start :=
      ⟨fun _ _ => Or.symm⟩
    have := hapart.forall hr' hr fun e => hne (congrArg some e)
    omega

/-- A checked read answers the same from another memory that agrees on the bytes it may read. -/
theorem memRead_withMem {s : State} {m : Memory} {a : Int} {n : Nat} {ctx : Context}
    {fetch : Bool}
    (h : ∀ r, s.resolve a = some r → a + n ≤ r.stop → permitted .read ctx r.flags = true →
      ∀ b, a.toNat ≤ b → b < a.toNat + n → m.read b = s.mem.read b) :
    (s.withMem m).memRead a n ctx fetch = s.memRead a n ctx fetch := by
  rw [State.memRead, State.memRead, State.withMem_resolve]
  cases hr : s.resolve a with
  | none => rfl
  | some r =>
    by_cases hstop : (r.stop : Int) < a + n
    · simp only [hstop, if_true]
    · cases hp : permitted .read ctx r.flags with
      | false => simp [hp]
      | true =>
        simp only [State.withMem_mem, Memory.readBytes_congr (h r hr (by omega) hp)]

theorem hidden_congr {s t : State} (h : hostKept s t) (a : Nat) : Hidden t a ↔ Hidden s a := by
  obtain ⟨hcfg, hregions, hlen, -⟩ := h
  rw [Hidden, Hidden, State.resolve_congr hregions hlen, hcfg]

/-- The other memory agrees with the state's own wherever bytecode can read, in a state that meets
the invariants. -/
structure Indistinct (s : State) (m : Memory) : Prop where
  wf : s.mem.wf
  wf' : m.wf
  regions : RegionsInv s
  stack : StackInv s
  agree : ∀ a, ¬ Hidden s a → m.read a = s.mem.read a

theorem Memory.read_writeBytes_congr {m m' : Memory} (hm : m.wf) (hm' : m'.wf) {b : Nat}
    (h : m'.read b = m.read b) (a : Nat) (bs : List Byte) :
    (m'.writeBytes a bs).read b = (m.writeBytes a bs).read b := by
  by_cases hb : b < a ∨ a + bs.length ≤ b
  · rw [Memory.read_writeBytes_outside hm _ _ hb, Memory.read_writeBytes_outside hm' _ _ hb, h]
  · obtain ⟨k, rfl⟩ := Nat.exists_eq_add_of_le (show a ≤ b by omega)
    have hk : k < bs.length := by omega
    rw [Memory.read_writeBytes_inside hm _ _ hk, Memory.read_writeBytes_inside hm' _ _ hk]

theorem Effect.indistinct {s t : State} {m m' : Memory} (he : Effect s m t m')
    (h : Indistinct s m) : Indistinct t m' := by
  have hhost := he.hostKept
  have ⟨_, hregions, hlen, _⟩ := hhost
  refine ⟨he.mem_wf h.wf, ?_, h.regions.congr hregions hlen, he.stackInv h.stack, fun b hb => ?_⟩
  · obtain ⟨-, rfl⟩ | ⟨a, v, -, -, rfl⟩ := he.mem_cases
    · exact h.wf'
    · exact Memory.writeBytes_wf h.wf' _ _
  · have hagree := h.agree b ((hidden_congr hhost b).not.mp hb)
    obtain ⟨hmem, rfl⟩ | ⟨a, v, -, hmem, rfl⟩ := he.mem_cases
    · rw [hmem, hagree]
    · rw [hmem]
      exact Memory.read_writeBytes_congr h.wf h.wf' hagree _ _

/-- User reads stay in regions with PublicRead, and pops stay in the stack. -/
theorem simulation_indistinct : Simulation Indistinct where
  keep h he := he.indistinct h
  userRead {s} {m} a n fetch h := by
    refine memRead_withMem fun r hr hstop hp b hb hb' => h.agree b fun hhidden => ?_
    obtain ⟨hmem, hstart, -, -⟩ := State.resolve_some hr
    have hpublic := hhidden.1 r (resolve_of_mem h.regions hmem (by omega) (by omega))
    exact Bool.false_ne_true (hpublic.symm.trans hp)
  topRead {s} {m} h hpop := by
    refine memRead_withMem fun _ _ _ _ b hb hb' => h.agree b fun hhidden => hhidden.2 ?_
    obtain ⟨hlow, -, -⟩ := h.stack
    obtain ⟨hend, -⟩ := hpop
    omega

/-- Settles O47: the two runs go side by side, and every read answers alike in both. -/
theorem hiddenBytesDoNotLeak : Obligations.HiddenBytesDoNotLeak := by
  unfold Obligations.HiddenBytesDoNotLeak
  intro s s' t hm hm' hr hs hsame h
  obtain ⟨heq, hagree⟩ := hsame
  obtain ⟨u, m, hu, hu', hind⟩ :=
    simulation_indistinct.sameNext_step (s := s) (m := s'.mem) ⟨hm.1, hm'.1, hr, hs, hagree⟩
  obtain rfl := Host.Outcome.next.inj (hu.symm.trans h)
  have hs' : s.withMem s'.mem = s' := by rw [← heq]; rfl
  exact ⟨u.withMem m, hs' ▸ hu', rfl, hind.agree⟩

/-! ### Checked reads and writes of a word -/

/-- Settles O50: each case of the definition. -/
theorem permissionsFollowTheContext : Obligations.PermissionsFollowTheContext := by
  unfold Obligations.PermissionsFollowTheContext
  exact fun f => ⟨rfl, rfl, rfl, rfl, fun ctx => by cases ctx <;> rfl⟩

theorem accessFault_eq_none {s : State} {access : Access} {ctx : Context} {a : Int} {n : Nat} :
    accessFault s access ctx a n = none ↔
      ∃ r, s.resolve a = some r ∧ a + n ≤ r.stop ∧ permitted access ctx r.flags = true := by
  rw [accessFault]
  cases s.resolve a with
  | none => simp
  | some r => simp

theorem writeFault_of_accessFault {s : State} {ctx : Context} {a : Int} {n : Nat}
    (h : accessFault s .write ctx a n = none) : s.writeFault a n ctx = none :=
  State.writeFault_none.mpr (accessFault_eq_none.mp h)

/-- The bytes just stored are the word's, by place. -/
theorem holdsWord_storeBytes {s : State} (hwf : s.mem.wf) (a : Nat) (v : Word) :
    holdsWord (s.storeBytes a (bytesLe32 v)) a v := by
  intro k (hk : k < (bytesLe32 v).length)
  rw [State.storeBytes_mem, Memory.read_writeBytes_inside hwf a _ hk, bytesLe32_getElem]

theorem loadInt_storeBytes {s : State} (hwf : s.mem.wf) {a : Int} {ctx : Context} (v : Word)
    (h : accessFault s .read ctx a 4 = none) :
    loadInt a ctx (s.storeBytes a.toNat (bytesLe32 v)) =
      .ok v (s.storeBytes a.toNat (bytesLe32 v)) := by
  obtain ⟨r, hr, hstop, hp⟩ := accessFault_eq_none.mp h
  have hread : (s.mem.writeBytes a.toNat (bytesLe32 v)).readBytes a.toNat 4 = bytesLe32 v :=
    Memory.readBytes_writeBytes hwf a.toNat (bytesLe32 v)
  rw [loadInt_apply, State.memRead_of_ok (fetch := false)
    ((State.resolve_storeBytes s _ _ a).trans hr) hstop hp nofun, State.storeBytes_mem, hread]
  simp only [le32_bytesLe32]

/-- Settles O51: the store writes the word's bytes, and the load reads the same addresses. -/
theorem storedWordReadsBackByteByByte : Obligations.StoredWordReadsBackByteByByte := by
  unfold Obligations.StoredWordReadsBackByteByByte
  intro s a v ctx ctx' hwf hw hr
  refine ⟨s.storeBytes a.toNat (bytesLe32 v), ?_, holdsWord_storeBytes hwf _ v,
    loadInt_storeBytes hwf v hr, fun b hb => Memory.read_writeBytes_outside hwf _ _ hb, rfl⟩
  rw [storeInt_apply, writeFault_of_accessFault hw]

/-! ### The host's operations on regions (20_memory.md R77, R78) -/

/-- Settles O53: the update itself. -/
theorem clearStackOnlyMovesThePointer : Obligations.ClearStackOnlyMovesThePointer := by
  unfold Obligations.ClearStackOnlyMovesThePointer
  exact fun s => ⟨rfl, rfl, rfl⟩

/-- The state with one more region, under the next sequence id. -/
def State.withRegion (s : State) (r : Region) : State :=
  { s with regions := s.regions ++ [r], nextSeqId := s.nextSeqId + 1 }

/-- Why AddMemoryRegion refuses a range: it is empty, negative, past the buffer or overlapping. -/
def RegionRefused (s : State) (start stop : Int) : Prop :=
  stop ≤ start ∨ start < 0 ∨ (s.memLen : Int) < stop ∨
    ∃ r ∈ s.regions, start < r.stop ∧ (r.start : Int) < stop

/-- The model's test of a range is `RegionRefused`. -/
theorem regionRefused_iff (s : State) (start stop : Int) :
    (decide (stop ≤ start) || decide (start < 0) || decide ((s.memLen : Int) < stop) ||
      s.regions.any (fun r => !disjointRanges start.toNat stop.toNat r.start r.stop)) = true ↔
      RegionRefused s start stop := by
  simp only [RegionRefused, Bool.or_eq_true, decide_eq_true_eq, List.any_eq_true, or_assoc]
  refine or_congr_right' fun hne => or_congr_right' fun hneg => or_congr_right <|
    exists_congr fun r => and_congr_right fun _ => ?_
  simp only [disjointRanges, Bool.not_eq_true', Bool.or_eq_false_iff, decide_eq_false_iff_not]
  omega

theorem addMemoryRegion_of_refused {s : State} {start stop : Int} (h : RegionRefused s start stop)
    (flags : AccessFlags) (label : String) :
    s.addMemoryRegion start stop flags label = none :=
  if_pos ((regionRefused_iff s start stop).mpr h)

theorem addMemoryRegion_of_not_refused {s : State} {start stop : Int}
    (h : ¬ RegionRefused s start stop) (flags : AccessFlags) (label : String) :
    s.addMemoryRegion start stop flags label =
      some (s.withRegion ⟨s.nextSeqId, start.toNat, stop.toNat, flags, label⟩,
        ⟨s.nextSeqId, start.toNat, stop.toNat, flags, label⟩) :=
  if_neg ((regionRefused_iff s start stop).not.mpr h)

/-- Settles O57: both answers of the model's test. -/
theorem addMemoryRegionAppendsOrRefuses : Obligations.AddMemoryRegionAppendsOrRefuses := by
  unfold Obligations.AddMemoryRegionAppendsOrRefuses
  exact fun s start stop flags label =>
    ⟨fun h => addMemoryRegion_of_refused h flags label,
      fun h => addMemoryRegion_of_not_refused h flags label⟩

/-- The region of an image appended to the buffer (log entry 6 for its label). -/
def State.imageRegion (s : State) (bs : List Byte) : Region :=
  ⟨s.nextSeqId, s.memLen, s.memLen + bs.length, s.cfg.execFlags, "executable"⟩

/-- The state with an image appended to the buffer. -/
def State.withImage (s : State) (bs : List Byte) : State :=
  { s.withRegion (s.imageRegion bs) with
    mem := s.mem.writeBytes s.memLen bs
    memLen := s.memLen + bs.length }

theorem addExecutableMemory_eq (s : State) (bs : List Byte) :
    s.addExecutableMemory bs =
      if bs = [] ∨ 2147483647 < s.memLen + bs.length then none
      else some (s.withImage bs, s.imageRegion bs) := by
  simp only [State.addExecutableMemory, Bool.or_eq_true, List.isEmpty_iff, decide_eq_true_eq]
  rfl

theorem addExecutableMemory_of_fits {s : State} {bs : List Byte} (hne : bs ≠ [])
    (hlen : s.memLen + bs.length ≤ 2147483647) :
    s.addExecutableMemory bs = some (s.withImage bs, s.imageRegion bs) := by
  rw [addExecutableMemory_eq, if_neg (not_or.mpr ⟨hne, by omega⟩)]

theorem MemoryInv.withImage {s : State} (h : MemoryInv s) (bs : List Byte) :
    MemoryInv (s.withImage bs) :=
  memoryInv_writeBytes h rfl (Nat.le_add_right _ _) le_rfl

/-- Settles O58: the image is stored past the end of the buffer. -/
theorem addExecutableMemoryAppendsTheImage : Obligations.AddExecutableMemoryAppendsTheImage := by
  unfold Obligations.AddExecutableMemoryAppendsTheImage
  intro s bs h
  have hwf := h.1
  refine ⟨fun href => (addExecutableMemory_eq s bs).trans (if_pos href), fun hne hlen => ?_⟩
  exact ⟨s.withImage bs, s.imageRegion bs, addExecutableMemory_of_fits hne hlen, rfl, rfl, rfl,
    rfl, rfl, rfl, rfl, Memory.readBytes_writeBytes hwf _ _,
    fun b hb => Memory.read_writeBytes_outside hwf _ _ (.inl hb), h.withImage bs, rfl⟩

/-- One more region inside the buffer, apart from the others, keeps the invariant. -/
theorem regionsInv_append {s t : State} {r : Region} (h : RegionsInv s)
    (hregions : t.regions = s.regions ++ [r]) (hlen : s.memLen ≤ t.memLen)
    (hr : r.start < r.stop) (hstop : r.stop ≤ t.memLen)
    (hapart : ∀ r' ∈ s.regions, r'.stop ≤ r.start ∨ r.stop ≤ r'.start) : RegionsInv t := by
  obtain ⟨hbounds, hpair⟩ := h
  rw [RegionsInv, hregions]
  refine ⟨fun r' hr' => ?_, List.pairwise_append.mpr ⟨hpair, List.pairwise_singleton _ _, ?_⟩⟩
  · obtain hr' | hr' := List.mem_append.mp hr'
    · have := hbounds r' hr'
      omega
    · obtain rfl := List.mem_singleton.mp hr'
      exact ⟨hr, hstop⟩
  · intro r' hr' r'' hr''
    obtain rfl := List.mem_singleton.mp hr''
    exact hapart r' hr'

theorem invariants_addMemoryRegion {s t : State} {start stop : Int} {flags : AccessFlags}
    {label : String} {r : Region} (hm : MemoryInv s) (hr : RegionsInv s)
    (h : s.addMemoryRegion start stop flags label = some (t, r)) : MemoryInv t ∧ RegionsInv t := by
  by_cases href : RegionRefused s start stop
  · rw [addMemoryRegion_of_refused href] at h
    cases h
  · rw [addMemoryRegion_of_not_refused href] at h
    cases h
    simp only [RegionRefused, not_or, not_exists, not_and] at href
    obtain ⟨hempty, hneg, hend, hoverlap⟩ := href
    refine ⟨hm, regionsInv_append hr rfl le_rfl (by dsimp only; omega)
      (show stop.toNat ≤ s.memLen by omega) fun r' hr' => ?_⟩
    have := hoverlap r' hr'
    dsimp only
    omega

theorem invariants_addExecutableMemory {s t : State} {bs : List Byte} {r : Region}
    (hm : MemoryInv s) (hr : RegionsInv s) (h : s.addExecutableMemory bs = some (t, r)) :
    MemoryInv t ∧ RegionsInv t := by
  rw [addExecutableMemory_eq] at h
  split at h
  case isTrue => cases h
  case isFalse hne =>
    cases h
    rw [not_or] at hne
    have hpos := List.length_pos_iff.mpr hne.1
    exact ⟨hm.withImage bs, regionsInv_append hr rfl (Nat.le_add_right _ _)
      (show s.memLen < s.memLen + bs.length by omega) le_rfl
      fun r' hr' => .inl (hr.1 r' hr').2⟩

/-- A region stays exactly where it lacks Execute or is the stack's (20_memory.md R73, R78). -/
theorem mem_removeExecutableRegions (s : State) (r : Region) :
    r ∈ s.removeExecutableRegions.regions ↔
      r ∈ s.regions ∧
        (r.flags.execute = false ∨ (r.start = s.cfg.stackStart ∧ r.stop = s.cfg.stackEnd)) := by
  simp [State.removeExecutableRegions, isStackRegion]

theorem invariants_removeExecutableRegions {s : State} (hm : MemoryInv s) (hr : RegionsInv s)
    (hbase : ∀ r ∈ s.regions, r.flags.execute = false → r.stop ≤ s.cfg.baseMemorySize) :
    MemoryInv s.removeExecutableRegions ∧ RegionsInv s.removeExecutableRegions := by
  refine ⟨⟨Memory.truncate_wf hm.1 _, fun c hc => ?_⟩, fun r h => ?_, hr.2.filter _⟩
  · exact of_decide_eq_true (List.mem_filter.mp hc).2
  · obtain ⟨hmem, hkept⟩ := (mem_removeExecutableRegions s r).mp h
    refine ⟨(hr.1 r hmem).1, ?_⟩
    obtain hplain | ⟨-, hstack⟩ := hkept
    · exact hbase r hmem hplain
    · exact hstack.le

/-- The stack that ClearStack leaves is empty and on a slot boundary. -/
theorem stackInv_clearStack (s : State) : StackInv s.clearStack :=
  ⟨show ((s.cfg.baseMemorySize - s.cfg.stackSize : Nat) : Int) ≤ s.cfg.baseMemorySize by omega,
    le_rfl, show ((s.cfg.stackEnd : Int) - s.cfg.stackEnd) % 4 = 0 by omega⟩

/-- Settles O59: each operation by itself, from any state that meets the invariants. -/
theorem hostOperationsKeepTheInvariants : Obligations.HostOperationsKeepTheInvariants := by
  unfold Obligations.HostOperationsKeepTheInvariants
  intro s hm hr
  refine ⟨fun _ _ _ _ _ _ => invariants_addMemoryRegion hm hr,
    fun _ _ _ => invariants_addExecutableMemory hm hr, invariants_removeExecutableRegions hm hr,
    ⟨List.filter_sublist, mem_removeExecutableRegions s, rfl, fun b hb => ?below,
      fun b hb => ?above, rfl⟩,
    hm, hr, stackInv_clearStack s.cpuReset, fun _ => ?shadow, fun _ => ?mirror,
    fun h => absurd rfl h⟩
  case below => exact (Memory.read_truncate _ _ _).trans (if_pos hb)
  case above => exact (Memory.read_truncate _ _ _).trans (if_neg (by omega))
  case shadow => exact (Int.sub_self _).symm
  case mirror => exact .inr ⟨State.cpuReset_reg s .sp, rfl⟩

/-! ### Decoding what was encoded, through any reader (30_encoding.md R100) -/

section Serves

variable {ε : Type} {rd : Reader ε} {off : Nat}

/-- From an offset on the reader gives these bytes. -/
def Serves (rd : Reader ε) (off : Nat) (bs : List Byte) : Prop :=
  ∀ k n, k + n ≤ bs.length → rd (off + k) n = .ok ((bs.drop k).take n)

theorem Serves.all {bs : List Byte} (h : Serves rd off bs) : rd off bs.length = .ok bs := by
  simpa using h 0 bs.length (by omega)

theorem Serves.left {xs ys : List Byte} (h : Serves rd off (xs ++ ys)) : Serves rd off xs := by
  intro k n hk
  rw [h k n (by rw [List.length_append]; omega), List.drop_append_of_le_length (by omega),
    List.take_append_of_le_length (by rw [List.length_drop]; omega)]

theorem Serves.right {xs ys : List Byte} (h : Serves rd off (xs ++ ys)) :
    Serves rd (off + xs.length) ys := by
  intro k n hk
  rw [Nat.add_assoc, h (xs.length + k) n (by rw [List.length_append]; omega),
    List.drop_length_add_append]

theorem Serves.readInt {v : Word} (h : Serves rd off (bytesLe32 v)) : readInt rd off = .ok v := by
  have hrd : rd off 4 = .ok (bytesLe32 v) := h.all
  simp only [Sys2Proof.readInt, hrd, le32_bytesLe32]

theorem Serves.readByte {b : Byte} (h : Serves rd off [b]) : readByte rd off = .ok b := by
  have hrd : rd off 1 = .ok [b] := h.all
  simp only [Sys2Proof.readByte, hrd, List.headD_cons]

variable {c : Config} {inj : ContentError → ε}

theorem Serves.readRegister (hc : c.encodingLegal = true) {r : Reg}
    (h : Serves rd off [c.regId r]) : readRegister c inj rd off = .ok r := by
  simp only [Sys2Proof.readRegister, h.readByte, Config.regOf_regId hc]

/-- A text whose length a signed word can state is read back (30_encoding.md R107). -/
theorem Serves.readText {e : List Byte} (he : e.length ≤ 2147483647)
    (h : Serves rd off (bytesLe32 (BitVec.ofNat 32 e.length) ++ e)) :
    readText inj rd off = .ok e := by
  have hnat : (BitVec.ofNat 32 e.length).toNat = e.length := by
    rw [BitVec.toNat_ofNat, Nat.mod_eq_of_lt (by omega)]
  have hint : ¬ (BitVec.ofNat 32 e.length).toInt < 0 := by
    rw [BitVec.toInt_eq_toNat_of_lt (by omega)]
    omega
  have htext : rd (off + 4) e.length = .ok e := h.right.all
  simp only [Sys2Proof.readText, h.left.readInt, if_neg hint, hnat, htext]

/-- An argument's encoding can hold it: its length word can state the length of a text. -/
def argFits : (k : ArgKind) → k.Val → Bool
  | .expression, e => textLengthOk e
  | .literalInteger, _ | .literalPointer, _ | .register, _ | .registerPointer, _
  | .instructionSizeHint, _ => true

def argsFit : (ks : List ArgKind) → Vals ks → Bool
  | [], _ => true
  | k :: ks, v => argFits k v.1 && argsFit ks v.2

theorem wellFormed_eq_argsFit (i : Instr) : i.wellFormed = argsFit i.op.format.kinds i.vals := by
  cases i with
  | movLitExpMemReg e r => simp [Instr.wellFormed, argsFit, argFits]
  | _ => rfl

theorem Serves.decodeArg (hc : c.encodingLegal = true) {k : ArgKind} {v : k.Val}
    (hv : argFits k v = true) (h : Serves rd off (encodeArg c k v)) :
    decodeArg c inj rd k off = .ok v := by
  cases k with
  | literalInteger | literalPointer => exact h.readInt
  | register | registerPointer => exact h.readRegister hc
  | expression => exact h.readText (of_decide_eq_true hv)
  | instructionSizeHint => exact h.readByte

theorem Serves.decodeArgs (hc : c.encodingLegal = true) {ks : List ArgKind} {v : Vals ks}
    (hv : argsFit ks v = true) (h : Serves rd off (encodeArgs c ks v)) :
    decodeArgs c inj rd ks off = .ok v := by
  induction ks generalizing off with
  | nil => rfl
  | cons k ks ih =>
    obtain ⟨v, vs⟩ := v
    obtain ⟨hv, hvs⟩ := Bool.and_eq_true_iff.mp hv
    have hrest := h.right
    rw [encodeArg_length] at hrest
    simp only [Sys2Proof.decodeArgs, h.left.decodeArg hc hv, ih hvs hrest]

theorem Serves.decodeOp (hc : c.encodingLegal = true) {i : Instr}
    (h : Serves rd 0 (encodeWith c i)) : decodeOp c inj rd = .ok i.op := by
  simp only [Sys2Proof.decodeOp, h.left.readInt, Config.opOf_opcode hc]

theorem build_op_vals (i : Instr) : i.op.build i.vals = i := by
  cases i <;> rfl

theorem Serves.decodeRest (hc : c.encodingLegal = true) {i : Instr} (hi : i.wellFormed = true)
    (h : Serves rd 0 (encodeWith c i)) : decodeRest c inj rd i.op = .ok i := by
  rw [wellFormed_eq_argsFit] at hi
  have hargs := h.right
  rw [bytesLe32_length] at hargs
  simp only [Sys2Proof.decodeRest, hargs.decodeArgs hc hi, build_op_vals]

end Serves

/-! ### Boot (70_reset_and_hazards.md R303) -/

/-- A step that decodes an instruction runs it. -/
theorem step_of_fetched {s : State} {o : Op} {i : Instr} (hh : s.halted = false)
    (hr : s.haltRequested = false) (ho : s.fetchOp = .ok o) (hi : s.fetchRest o = .ok i) :
    step s = exec i s := by
  simp only [step, hh, hr, ho, hi, Bool.false_eq_true, if_false]

/-- A step on an encoded instruction, served at IP, runs it. -/
theorem step_of_serves {s : State} {i : Instr} (hc : s.cfg.encodingLegal = true)
    (hi : i.wellFormed = true) (hh : s.halted = false) (hr : s.haltRequested = false)
    (h : Serves (s.fetchReader (opcodeAddress s)) 0 (encodeWith s.cfg i)) :
    step s = exec i s :=
  step_of_fetched hh hr (h.decodeOp hc) (h.decodeRest hc hi)

/-- Past the regions before it, an address of the image resolves to the image's region. -/
theorem resolve_withImage {s : State} (h : ∀ r ∈ s.regions, r.stop ≤ s.memLen) {bs : List Byte}
    {k : Nat} (hk : k < bs.length) :
    (s.withImage bs).resolve ((s.memLen + k : Nat) : Int) = some (s.imageRegion bs) := by
  have hold : s.regions.find? (fun r => r.holds (s.memLen + k : Nat)) = none := by
    refine List.find?_eq_none.mpr fun r hr hholds => ?_
    have := h r hr
    simp only [Region.holds, Bool.and_eq_true, decide_eq_true_eq] at hholds
    omega
  have hnew : (s.imageRegion bs).holds (s.memLen + k : Nat) = true :=
    Bool.and_eq_true_iff.mpr
      ⟨decide_eq_true (Int.ofNat_le.mpr (Nat.le_add_right s.memLen k)),
        decide_eq_true (Int.ofNat_lt.mpr (Nat.add_lt_add_left hk s.memLen))⟩
  have hlen : ((s.memLen + k : Nat) : Int) < (s.withImage bs).memLen :=
    Int.ofNat_lt.mpr (Nat.add_lt_add_left hk _)
  rw [State.resolve, if_pos hlen]
  show (s.regions ++ [s.imageRegion bs]).find? _ = _
  rw [List.find?_append, hold, Option.none_or, List.find?_singleton, if_pos hnew]

/-- Reading back a part of the bytes stored. -/
theorem Memory.readBytes_writeBytes_part {m : Memory} (h : m.wf) (a : Nat) (bs : List Byte)
    {k n : Nat} (hk : k + n ≤ bs.length) :
    (m.writeBytes a bs).readBytes (a + k) n = (bs.drop k).take n := by
  refine List.ext_getElem (by simp; omega) fun j hj _ => ?_
  rw [Memory.readBytes_length] at hj
  rw [Memory.readBytes_getElem, Nat.add_assoc, Memory.read_writeBytes_inside h a bs (by omega),
    List.getElem_take, List.getElem_drop]

/-- An executable image that is public to read is served by the fetch from its start. -/
theorem serves_withImage {s : State} (hwf : s.mem.wf) (h : ∀ r ∈ s.regions, r.stop ≤ s.memLen)
    (hx : s.cfg.execFlags.execute = true) (hp : s.cfg.execFlags.publicRead = true)
    (bs : List Byte) : Serves ((s.withImage bs).fetchReader s.memLen) 0 bs := by
  intro k n hk
  show (s.withImage bs).memRead (s.memLen + (0 + k : Nat)) n .user true = _
  rw [Nat.zero_add, ← Int.natCast_add]
  obtain rfl | hn := Nat.eq_zero_or_pos n
  · rw [List.take_zero]
    rfl
  · rw [State.memRead_of_ok (ctx := .user) (resolve_withImage h (by omega))
      (Int.ofNat_le.mpr (show s.memLen + k + n ≤ s.memLen + bs.length by omega)) hp fun _ => hx,
      Int.toNat_natCast]
    exact congrArg _ (Memory.readBytes_writeBytes_part hwf _ _ hk)

theorem mem_numberedRegions {n : Nat} {specs : List RegionSpec} {r : Region}
    (h : r ∈ numberedRegions n specs) : ∃ spec ∈ specs, r.stop = spec.stop := by
  induction specs generalizing n with
  | nil => cases h
  | cons spec specs ih =>
    obtain rfl | h := List.mem_cons.mp h
    · exact ⟨spec, List.mem_cons_self, rfl⟩
    · obtain ⟨spec', hspec, hstop⟩ := ih h
      exact ⟨spec', List.mem_cons_of_mem _ hspec, hstop⟩

/-- The regions of a new machine lie in base memory (00_scope.md R7). -/
theorem constructed_regions_stop {c : Config} (hc : c.memoryLegal = true) :
    ∀ r ∈ (State.constructed c).regions, r.stop ≤ c.baseMemorySize := by
  simp only [Config.memoryLegal, Bool.and_eq_true, List.all_eq_true, decide_eq_true_eq] at hc
  obtain ⟨⟨-, hspecs⟩, -⟩ := hc
  intro r hr
  obtain hr | hr := List.mem_append.mp hr
  · obtain ⟨spec, hspec, hstop⟩ := mem_numberedRegions hr
    obtain ⟨-, hlow⟩ := hspecs spec hspec
    rw [hstop]
    exact hlow.trans (Nat.sub_le _ _)
  · obtain rfl := List.mem_singleton.mp hr
    exact le_rfl

/-- Booting a new machine removes nothing: no program was loaded before. -/
theorem boot_constructed {c : Config} {image : List Byte} (hne : image ≠ [])
    (hlen : c.baseMemorySize + image.length ≤ 2147483647) :
    (State.constructed c).boot image =
      some (((State.constructed c).withImage image).setEntry c.baseMemorySize) := by
  have hload : (State.constructed c).hostReset.unloadPrograms = State.constructed c :=
    if_neg (by simp [State.programLoaded, State.hostReset, State.constructed])
  rw [State.boot, hload, addExecutableMemory_of_fits hne hlen]
  rfl

/-- IP holds the entry point that the host writes, where a signed word can hold it. -/
theorem opcodeAddress_setEntry (s : State) {a : Nat} (ha : a ≤ 2147483647) :
    opcodeAddress (s.setEntry a) = a := by
  rw [opcodeAddress, State.setEntry, State.reg_setReg_self]
  exact BitVec.toInt_ofInt_eq_self (by omega) (by omega) (by omega)

/-- Settles O60: the fetch is served the image, and so decodes the instruction at its start. -/
theorem bootRunsTheImageFromItsStart : Obligations.BootRunsTheImageFromItsStart := by
  unfold Obligations.BootRunsTheImageFromItsStart
  intro c s i rest hs hp hb hi hlen
  obtain ⟨hlegal, rfl⟩ : c.legal = true ∧ State.constructed c = s := by
    simpa [construct] using hs
  obtain ⟨hcode, hmem⟩ := Bool.and_eq_true_iff.mp hlegal
  have hx : c.execFlags.execute = true := by
    simp only [Config.memoryLegal, Bool.and_eq_true] at hmem
    obtain ⟨⟨⟨-, hx⟩, -⟩, -⟩ := hmem
    exact hx
  have hne : encodeWith c i ++ rest ≠ [] := by simp [encodeWith, bytesLe32]
  have hip := opcodeAddress_setEntry ((State.constructed c).withImage (encodeWith c i ++ rest))
    ((Nat.le_add_right _ _).trans hlen)
  refine ⟨_, boot_constructed hne hlen, ⟨_, rfl, rfl, rfl, rfl⟩, hip,
    step_of_serves hcode hi rfl ?noBreakpoint ?served⟩
  case noBreakpoint =>
    show c.breakpoints.any _ = false
    rw [hb, List.any_nil]
  case served =>
    rw [hip]
    exact (serves_withImage (constructed_mem_wf c) (constructed_regions_stop hmem) hx hp _).left

end Sys2Proof.Machine
end

section
/-! PROOFS. The encoding and the decoder, each against the other, and the statements of
30_encoding.md and of the fetch of encoded bytes (40_cycle.md R141-R143). -/

namespace Sys2Proof.Machine

/-! ### What a decoder over any reader does with bytes that are served to it -/

section Decoder

variable {ε : Type} {rd : Reader ε} {c : Config} {inj : ContentError → ε}

theorem Serves.decodeOp_known {v : Word} {args : List Byte} {o : Op} (hv : c.opOf v = some o)
    (h : Serves rd 0 (bytesLe32 v ++ args)) : Sys2Proof.decodeOp c inj rd = .ok o := by
  simp only [Sys2Proof.decodeOp, h.left.readInt, hv]

theorem Serves.decodeOp_unknown {v : Word} {args : List Byte} (hv : c.opOf v = none)
    (h : Serves rd 0 (bytesLe32 v ++ args)) :
    Sys2Proof.decodeOp c inj rd = .error (inj (.unknownOpcode v)) := by
  simp only [Sys2Proof.decodeOp, h.left.readInt, hv]

/-- A served encoding decodes to its instruction. -/
theorem Serves.decodeFrom (hc : c.encodingLegal = true) {i : Instr} (hi : i.wellFormed = true)
    (h : Serves rd 0 (encodeWith c i)) : Sys2Proof.decodeFrom c inj rd = .ok i := by
  rw [Sys2Proof.decodeFrom, h.decodeOp hc]
  exact h.decodeRest hc hi

end Decoder

/-! ### Lengths (30_encoding.md R109) -/

/-- The length of the encoded arguments is the sum of their sizes (30_encoding.md R109). -/
theorem encodeArgs_length (c : Config) (ks : List ArgKind) (v : Vals ks) :
    (encodeArgs c ks v).length = argsSize ks v := by
  induction ks with
  | nil => rfl
  | cons k ks ih => rw [encodeArgs, List.length_append, encodeArg_length, ih, argsSize]

theorem encodeWith_length (c : Config) (i : Instr) : (encodeWith c i).length = i.length := by
  rw [encodeWith, List.length_append, bytesLe32_length, encodeArgs_length, Instr.length]

/-! ### The reader of a list of bytes -/

theorem serves_listReader (bs : List Byte) : Serves (listReader bs) 0 bs := by
  intro k n hk
  rw [Nat.zero_add, listReader, if_pos hk]

/-- Settles O1: the list's reader serves the encoding, and what follows it is left over. -/
theorem encodedInstructionsDecodeBack : Obligations.EncodedInstructionsDecodeBack := by
  unfold Obligations.EncodedInstructionsDecodeBack
  intro c i rest hc hi
  rw [decodeWith, (serves_listReader _).left.decodeFrom hc hi]
  simp only [← encodeWith_length c i, List.drop_left]

/-- A read of the list that succeeds gives bytes of the list. -/
theorem listReader_ok {bs xs : List Byte} {off n : Nat} (h : listReader bs off n = .ok xs) :
    xs.length = n ∧ xs <+: bs.drop off := by
  unfold listReader at h
  split at h
  case isTrue hle =>
    obtain rfl := Except.ok.inj h
    exact ⟨by rw [List.length_take, List.length_drop]; omega, List.take_prefix n _⟩
  case isFalse => cases h

/-! ### Bytes that decode -/

/-- A found second part leads back to the entry: the first parts are distinct. -/
theorem find_fst_of_find_snd {α β : Type} [BEq α] [LawfulBEq α] [BEq β] [LawfulBEq β]
    {l : List (α × β)} (hn : (l.map Prod.fst).Nodup) {a : α} {b : β}
    (h : (l.find? (fun p => p.2 == b)).map Prod.fst = some a) :
    l.find? (fun p => p.1 == a) = some (a, b) := by
  obtain ⟨q, hq, rfl⟩ := Option.map_eq_some_iff.mp h
  obtain rfl : q.2 = b := by simpa using List.find?_some hq
  have hmem := List.mem_of_find?_eq_some hq
  obtain ⟨p, hp, hpq, hfind⟩ := find_fst_isSome (List.mem_map_of_mem (f := Prod.fst) hmem)
  rw [hfind, List.inj_on_of_nodup_map hn hp hmem hpq]

/-- In a legal register map a register's identifier is the byte that names it (00_scope.md R7). -/
theorem regId_of_regOf {c : Config} (hc : c.encodingLegal = true) {b : Byte} {r : Reg}
    (h : c.regOf b = some r) : c.regId r = b := by
  simp only [Config.encodingLegal, Bool.and_eq_true, decide_eq_true_eq] at hc
  obtain ⟨⟨⟨-, hnodup⟩, -⟩, -⟩ := hc
  rw [Config.regId, find_fst_of_find_snd hnodup h]

/-- In a legal opcode map a name has no opcode but the one that names it (00_scope.md R7). -/
theorem opcode_of_opOf {c : Config} (hc : c.encodingLegal = true) {v : Word} {o : Op}
    (h : c.opOf v = some o) : c.opcode o = v := by
  simp only [Config.encodingLegal, Bool.and_eq_true, decide_eq_true_eq] at hc
  obtain ⟨⟨⟨⟨⟨⟨-, hnodup⟩, -⟩, -⟩, -⟩, -⟩, -⟩ := hc
  rw [Config.opcode, find_fst_of_find_snd hnodup h]

theorem bytesLe32_le32_of_length {xs : List Byte} (h : xs.length = 4) :
    bytesLe32 (le32 xs) = xs := by
  obtain ⟨b0, b1, b2, b3, rfl⟩ := List.length_eq_four.mp h
  exact bytesLe32_le32 b0 b1 b2 b3

/-- Two runs of bytes, the second right after the first. -/
theorem append_prefix_drop {bs xs ys : List Byte} {off : Nat} (hx : xs <+: bs.drop off)
    (hy : ys <+: bs.drop (off + xs.length)) : xs ++ ys <+: bs.drop off := by
  rw [List.prefix_iff_eq_append] at hx
  rw [← List.drop_drop] at hy
  rw [← hx]
  exact (List.prefix_append_right_inj xs).mpr hy

section ListReader

variable {bs : List Byte} {off : Nat} {c : Config} {inj : ContentError → DecodeError}

theorem readInt_list_ok {v : Word} (h : readInt (listReader bs) off = .ok v) :
    bytesLe32 v <+: bs.drop off := by
  unfold readInt at h
  split at h
  · cases h
  next xs hrd =>
    obtain ⟨hlen, hpre⟩ := listReader_ok hrd
    obtain rfl := Except.ok.inj h
    rwa [bytesLe32_le32_of_length hlen]

theorem readByte_list_ok {b : Byte} (h : readByte (listReader bs) off = .ok b) :
    [b] <+: bs.drop off := by
  unfold readByte at h
  split at h
  · cases h
  next xs hrd =>
    obtain ⟨hlen, hpre⟩ := listReader_ok hrd
    obtain ⟨b', rfl⟩ := List.length_eq_one_iff.mp hlen
    obtain rfl := Except.ok.inj h
    exact hpre

theorem readRegister_list_ok (hc : c.encodingLegal = true) {r : Reg}
    (h : readRegister c inj (listReader bs) off = .ok r) : [c.regId r] <+: bs.drop off := by
  unfold readRegister at h
  split at h
  · cases h
  next b hb =>
    split at h
    next r' hr =>
      obtain rfl := Except.ok.inj h
      rw [regId_of_regOf hc hr]
      exact readByte_list_ok hb
    · cases h

/-- A text that is read follows a length word that states its length (30_encoding.md R107). -/
theorem readText_list_ok {e : List Byte} (h : readText inj (listReader bs) off = .ok e) :
    textLengthOk e = true ∧
      bytesLe32 (BitVec.ofNat 32 e.length) ++ e <+: bs.drop off := by
  unfold readText at h
  split at h
  · cases h
  next n hn =>
    split at h
    case isTrue => cases h
    case isFalse hneg =>
      obtain ⟨hlen, hpre⟩ := listReader_ok h
      rw [BitVec.toInt_eq_toNat_cond] at hneg
      refine ⟨decide_eq_true (by omega), ?_⟩
      rw [hlen, BitVec.ofNat_toNat, BitVec.setWidth_eq]
      exact append_prefix_drop (readInt_list_ok hn) hpre

/-- An argument that is read fits its encoding, and its encoding stands where it was read. -/
theorem decodeArg_list_ok (hc : c.encodingLegal = true) {k : ArgKind} {v : k.Val}
    (h : decodeArg c inj (listReader bs) k off = .ok v) :
    argFits k v = true ∧ encodeArg c k v <+: bs.drop off := by
  cases k with
  | literalInteger | literalPointer => exact ⟨rfl, readInt_list_ok h⟩
  | register | registerPointer => exact ⟨rfl, readRegister_list_ok hc h⟩
  | expression => exact readText_list_ok h
  | instructionSizeHint => exact ⟨rfl, readByte_list_ok h⟩

theorem decodeArgs_list_ok (hc : c.encodingLegal = true) {ks : List ArgKind} {vs : Vals ks}
    (h : decodeArgs c inj (listReader bs) ks off = .ok vs) :
    argsFit ks vs = true ∧ encodeArgs c ks vs <+: bs.drop off := by
  induction ks generalizing off with
  | nil => exact ⟨rfl, List.nil_prefix⟩
  | cons k ks ih =>
    unfold decodeArgs at h
    split at h
    · cases h
    next v hv =>
      split at h
      · cases h
      next vs' hvs =>
        obtain rfl := Except.ok.inj h
        obtain ⟨hfit, hpre⟩ := decodeArg_list_ok hc hv
        obtain ⟨hfits, hpres⟩ := ih hvs
        rw [← encodeArg_length c] at hpres
        exact ⟨Bool.and_eq_true_iff.mpr ⟨hfit, hfits⟩, append_prefix_drop hpre hpres⟩

theorem decodeOp_list_ok (hc : c.encodingLegal = true) {o : Op}
    (h : decodeOp c inj (listReader bs) = .ok o) : bytesLe32 (c.opcode o) <+: bs := by
  unfold decodeOp at h
  split at h
  · cases h
  next v hv =>
    split at h
    next o' ho =>
      obtain rfl := Except.ok.inj h
      rw [opcode_of_opOf hc ho]
      exact readInt_list_ok hv
    · cases h

end ListReader

theorem encodeWith_build (c : Config) (o : Op) (vs : Vals o.format.kinds) :
    encodeWith c (o.build vs) = bytesLe32 (c.opcode o) ++ encodeArgs c o.format.kinds vs := by
  cases o <;> rfl

theorem wellFormed_build (o : Op) (vs : Vals o.format.kinds) :
    (o.build vs).wellFormed = argsFit o.format.kinds vs := by
  rw [wellFormed_eq_argsFit]
  cases o <;> rfl

theorem decodeFrom_list_ok {c : Config} {inj : ContentError → DecodeError} {bs : List Byte}
    {i : Instr} (hc : c.encodingLegal = true) (h : decodeFrom c inj (listReader bs) = .ok i) :
    i.wellFormed = true ∧ encodeWith c i <+: bs := by
  unfold decodeFrom at h
  split at h
  · cases h
  next o ho =>
    unfold decodeRest at h
    split at h
    · cases h
    next vs hvs =>
      obtain rfl := Except.ok.inj h
      obtain ⟨hfits, hpre⟩ := decodeArgs_list_ok hc hvs
      rw [wellFormed_build, encodeWith_build]
      exact ⟨hfits, append_prefix_drop (off := 0) (decodeOp_list_ok hc ho) hpre⟩

/-- Settles O2: each read of the decoder gives back the bytes that encode its value. -/
theorem decodedBytesAreTheEncoding : Obligations.DecodedBytesAreTheEncoding := by
  unfold Obligations.DecodedBytesAreTheEncoding
  intro c bs rest i hc h
  unfold decodeWith at h
  split at h
  · cases h
  next i' hi =>
    obtain ⟨rfl, rfl⟩ := Prod.mk.inj (Except.ok.inj h)
    obtain ⟨hwf, hpre⟩ := decodeFrom_list_ok hc hi
    rw [← encodeWith_length c]
    exact ⟨hwf, (List.prefix_iff_eq_append.mp hpre).symm⟩

/-! ### Sizes and examples -/

/-- Settles O3: the sizes are the definition's, and the formats without a text have fixed ones. -/
theorem instructionLengthIsItsEncodedSize : Obligations.InstructionLengthIsItsEncodedSize := by
  unfold Obligations.InstructionLengthIsItsEncodedSize
  refine ⟨fun _ => rfl, fun _ => rfl, fun _ => rfl, fun _ => rfl, fun _ => rfl, fun _ => rfl,
    fun c i => ⟨rfl, encodeWith_length c i, ?_⟩⟩
  cases i with
  | movLitExpMemReg e r =>
    refine .inr ⟨e, r, rfl, ?_⟩
    simp only [Instr.length, argsSize, ArgKind.size]
    omega
  | _ => exact .inl (by simp [Instr.length, argsSize, ArgKind.size])

/-- Settles O4: the decoder runs on the words as they are written. -/
theorem exampleWordsDecode : Obligations.ExampleWordsDecode := by
  unfold Obligations.ExampleWordsDecode
  decide

/-! ### Illegal encodings -/

section Illegal

variable {ε : Type} {rd : Reader ε} {off : Nat} {c : Config} {inj : ContentError → ε} {e : ε}

theorem decodeArgs_head_error {k : ArgKind} {ks : List ArgKind}
    (h : decodeArg c inj rd k off = .error e) : decodeArgs c inj rd (k :: ks) off = .error e := by
  rw [decodeArgs, h]

theorem decodeArgs_tail_error {k : ArgKind} {ks : List ArgKind} {v : k.Val}
    (hk : decodeArg c inj rd k off = .ok v)
    (h : decodeArgs c inj rd ks (off + k.size v) = .error e) :
    decodeArgs c inj rd (k :: ks) off = .error e := by
  rw [decodeArgs, hk]
  simp only [h]

theorem Serves.readRegister_error {b : Byte} (hb : c.regOf b = none) (h : Serves rd off [b]) :
    Sys2Proof.readRegister c inj rd off = .error (inj (.badRegister b)) := by
  simp only [Sys2Proof.readRegister, h.readByte, hb]

theorem Serves.readRegister_ok {b : Byte} {r : Reg} (hb : c.regOf b = some r)
    (h : Serves rd off [b]) : Sys2Proof.readRegister c inj rd off = .ok r := by
  simp only [Sys2Proof.readRegister, h.readByte, hb]

theorem Serves.readText_error {n : Word} (hn : n.toInt < 0) (h : Serves rd off (bytesLe32 n)) :
    Sys2Proof.readText inj rd off = .error (inj (.badLength n.toInt)) := by
  simp only [Sys2Proof.readText, h.readInt, if_pos hn]

end Illegal

theorem decodeWith_of_error {c : Config} {bs : List Byte} {e : DecodeError}
    (h : decodeFrom c .illegal (listReader bs) = .error e) : decodeWith c bs = .error e := by
  rw [decodeWith, h]

/-- An opcode outside the map is refused, whatever follows it (30_encoding.md R112). -/
theorem decodeWith_unknownOpcode {c : Config} {v : Word} (hv : c.opOf v = none)
    (rest : List Byte) :
    decodeWith c (bytesLe32 v ++ rest) = .error (.illegal (.unknownOpcode v)) := by
  apply decodeWith_of_error
  rw [decodeFrom, (serves_listReader _).decodeOp_unknown hv]

/-- What goes wrong in the arguments after a known opcode is what the decoder answers. -/
theorem decodeWith_args_error {c : Config} {o : Op} {f : Format} {args : List Byte}
    {e : DecodeError} (ho : c.opOf (c.opcode o) = some o) (hf : o.format = f)
    (h : ∀ rd, Serves rd 4 args → decodeArgs c .illegal rd f.kinds 4 = .error e) :
    decodeWith c (bytesLe32 (c.opcode o) ++ args) = .error e := by
  have hserved := serves_listReader (bytesLe32 (c.opcode o) ++ args)
  have hargs := h _ hserved.right
  subst hf
  apply decodeWith_of_error
  simp only [decodeFrom, hserved.decodeOp_known ho, decodeRest, hargs]

/-- A byte that names no register, as the first argument (30_encoding.md R104, R110). -/
theorem decodeWith_badRegister_first {c : Config} {o : Op} {b : Byte}
    (ho : c.opOf (c.opcode o) = some o) (hb : c.regOf b = none)
    (hf : o.format ∈ [Format.r, .rr, .rp, .qr, .rl]) (rest : List Byte) :
    decodeWith c (bytesLe32 (c.opcode o) ++ ([b] ++ rest)) =
      .error (.illegal (.badRegister b)) := by
  refine decodeWith_args_error ho rfl fun rd h => ?_
  have hread := h.left.readRegister_error (inj := .illegal) hb
  cases hfmt : o.format with
  | r | rr | rp | qr | rl => exact decodeArgs_head_error hread
  | n | l | p | lr | lp | pr | er => simp [hfmt] at hf

/-- A byte that names no register, as the second argument: after a register, a word or a text
(30_encoding.md R104, R110). -/
theorem decodeWith_badRegister_second {c : Config} {o : Op} {b : Byte} {k : ArgKind}
    {f : Format} {before : List Byte} {v : k.Val} (ho : c.opOf (c.opcode o) = some o)
    (hb : c.regOf b = none) (hf : o.format = f) (hkinds : f.kinds = [k, .register])
    (hsize : k.size v = before.length)
    (hread : ∀ rd : Reader DecodeError, Serves rd 4 before →
      decodeArg c .illegal rd k 4 = .ok v) (rest : List Byte) :
    decodeWith c (bytesLe32 (c.opcode o) ++ (before ++ ([b] ++ rest))) =
      .error (.illegal (.badRegister b)) := by
  refine decodeWith_args_error ho hf fun rd h => ?_
  rw [hkinds]
  refine decodeArgs_tail_error (hread rd h.left) (decodeArgs_head_error ?_)
  rw [hsize]
  exact h.right.left.readRegister_error hb

/-- Settles O5: the reads before the illegal one succeed, and the illegal one is refused. -/
theorem illegalEncodingsAreRefused : Obligations.IllegalEncodingsAreRefused := by
  unfold Obligations.IllegalEncodingsAreRefused
  refine ⟨by decide, fun c rest => ⟨fun v hv => decodeWith_unknownOpcode hv rest,
    fun o b ho hb => ?_, fun o n ho hf hn => ?negativeLength⟩⟩
  case negativeLength =>
    rw [List.append_assoc]
    exact decodeWith_args_error ho hf fun rd h =>
      decodeArgs_head_error (h.left.readText_error hn)
  simp only [List.append_assoc]
  refine ⟨fun hf => decodeWith_badRegister_first ho hb hf rest, fun hf b' r hr => ?afterRegister,
    fun hf v => ?afterWord, fun hf e he => ?afterText⟩
  case afterRegister =>
    have hread := fun (rd : Reader DecodeError) (h : Serves rd 4 [b']) =>
      h.readRegister_ok (inj := .illegal) hr
    obtain hf | hf : o.format = .rr ∨ o.format = .qr := by simpa using hf
    · exact decodeWith_badRegister_second ho hb hf rfl rfl hread rest
    · exact decodeWith_badRegister_second ho hb hf rfl rfl hread rest
  case afterWord =>
    have hread := fun (rd : Reader DecodeError) (h : Serves rd 4 (bytesLe32 v)) => h.readInt
    obtain hf | hf : o.format = .lr ∨ o.format = .pr := by simpa using hf
    · exact decodeWith_badRegister_second ho hb hf rfl rfl hread rest
    · exact decodeWith_badRegister_second ho hb hf rfl rfl hread rest
  case afterText =>
    rw [← List.append_assoc (bytesLe32 _) e]
    refine decodeWith_badRegister_second ho hb hf rfl ?_ (fun rd h =>
      h.readText (of_decide_eq_true he)) rest
    rw [List.length_append, bytesLe32_length, ArgKind.size]

/-! ### Reads of the fetch -/

/-- The checks of one fetch read, in their order (20_memory.md R66, R68; 40_cycle.md R141). -/
theorem fetchReader_apply (s : State) (a : Int) (off : Nat) {n : Nat} (hn : n ≠ 0) :
    s.fetchReader a off n =
      match fetchFault s (a + off) n with
      | some f => .error f
      | none => .ok (s.mem.readBytes (a + off).toNat n) := by
  rw [State.fetchReader, State.reader, State.memRead, if_neg hn, fetchFault]
  cases s.resolve (a + off) with
  | none => rfl
  | some r =>
    by_cases hstop : (r.stop : Int) < a + off + n
    · simp [hstop]
    · cases hp : r.flags.publicRead <;> cases hx : r.flags.execute <;>
        simp [hstop, hp, hx, permitted]

theorem fetchReader_zero (s : State) (a : Int) (off : Nat) : s.fetchReader a off 0 = .ok [] := rfl

theorem readInt_fetch (s : State) (a : Int) (off : Nat) :
    readInt (s.fetchReader a) off =
      match fetchFault s (a + off) 4 with
      | some f => .error f
      | none => .ok (wordAt s (a + off).toNat) := by
  rw [readInt, fetchReader_apply s a off (by omega)]
  cases fetchFault s (a + off) 4 <;> rfl

theorem readByte_fetch (s : State) (a : Int) (off : Nat) :
    readByte (s.fetchReader a) off =
      match fetchFault s (a + off) 1 with
      | some f => .error f
      | none => .ok (s.mem.read (a + off).toNat) := by
  rw [readByte, fetchReader_apply s a off (by omega)]
  cases fetchFault s (a + off) 1 <;> rfl

/-- Settles O12: an argument read is a fetch read, and the value is looked at after it. -/
theorem argumentReadsCheckAccessThenValue : Obligations.ArgumentReadsCheckAccessThenValue := by
  unfold Obligations.ArgumentReadsCheckAccessThenValue
  intro s a off
  refine ⟨?word, ?register, ?text⟩
  case word =>
    simp only [decodeArg, readInt_fetch]
    cases fetchFault s (a + off) 4 <;> exact ⟨rfl, rfl⟩
  case register =>
    simp only [decodeArg, readRegister, readByte_fetch]
    cases fetchFault s (a + off) 1 with
    | some f => exact ⟨rfl, rfl⟩
    | none =>
      cases hr : s.cfg.regOf (s.mem.read (a + off).toNat) <;> simp [hr, decodeFault]
  case text =>
    simp only [decodeArg, readText, readInt_fetch]
    cases fetchFault s (a + off) 4 with
    | some f => rfl
    | none =>
      have hafter : a + off + 4 = a + (off + 4 : Nat) := by omega
      simp only [hafter]
      generalize wordAt s (a + off).toNat = v
      by_cases hneg : v.toInt < 0
      · simp only [if_pos hneg, decodeFault]
      · have hnat : v.toInt.toNat = v.toNat := by rw [BitVec.toInt_eq_toNat_cond] at hneg ⊢; omega
        simp only [if_neg hneg, hnat]
        by_cases hzero : v.toInt = 0
        · rw [if_pos hzero, show v.toNat = 0 by omega, fetchReader_zero]
        · rw [if_neg hzero, fetchReader_apply s a (off + 4) (by omega)]
          cases fetchFault s (a + (off + 4 : Nat)) v.toNat <;> rfl

/-! ### Running encoded bytes from memory -/

/-- A part of the bytes read. -/
theorem Memory.readBytes_part (m : Memory) (a : Nat) {len k n : Nat} (h : k + n ≤ len) :
    ((m.readBytes a len).drop k).take n = m.readBytes (a + k) n := by
  refine List.ext_getElem (by simp; omega) fun j _ _ => ?_
  rw [List.getElem_take, List.getElem_drop, Memory.readBytes_getElem, Memory.readBytes_getElem,
    Nat.add_assoc]

/-- No fetch inside an executable region that is public to read faults. -/
theorem fetchFault_of_mem {s : State} {r : Region} {a n : Nat} (hinv : RegionsInv s)
    (hr : r ∈ s.regions) (hp : r.flags.publicRead = true) (hx : r.flags.execute = true)
    (hstart : r.start ≤ a) (hn : n ≠ 0) (hstop : a + n ≤ r.stop) : fetchFault s a n = none := by
  have hin : ¬ (r.stop : Int) < a + n := by omega
  simp [fetchFault, resolve_of_mem hinv hr hstart (show a < r.stop by omega), hin, hp, hx]

/-- The fetch is served the bytes of an executable region that is public to read. -/
theorem serves_of_region {s : State} {r : Region} {a len : Nat} (hinv : RegionsInv s)
    (hr : r ∈ s.regions) (hp : r.flags.publicRead = true) (hx : r.flags.execute = true)
    (hstart : r.start ≤ a) (hstop : a + len ≤ r.stop) :
    Serves (s.fetchReader a) 0 (s.mem.readBytes a len) := by
  intro k n hk
  rw [Memory.readBytes_length] at hk
  rw [Nat.zero_add, Memory.readBytes_part s.mem a hk]
  obtain rfl | hn := Nat.eq_zero_or_pos n
  · rfl
  · have hfault : fetchFault s ((a : Int) + k) n = none :=
      fetchFault_of_mem (a := a + k) hinv hr hp hx (by omega) (by omega) (by omega)
    rw [fetchReader_apply s a k (by omega), hfault]
    rfl

/-- Settles O7: the checked fetch is served the encoding, and so decodes the instruction. -/
theorem encodedBytesInMemoryRun : Obligations.EncodedBytesInMemoryRun := by
  unfold Obligations.EncodedBytesInMemoryRun
  intro s i r hc hi hh hb hinv hr hp hx hstart hstop hbytes
  obtain ⟨a, ha⟩ := Int.eq_ofNat_of_zero_le ((Int.natCast_nonneg _).trans hstart)
  refine step_of_serves hc hi hh hb ?_
  rw [← hbytes, ha, Int.toNat_natCast]
  exact serves_of_region hinv hr hp hx (by omega) (by omega)

end Sys2Proof.Machine
end

section
/-! PROOFS. Numerals, integer literals and register names against their grammar
(30_encoding.md R117; 41_data_movement.md R168). -/

namespace Sys2Proof.Machine

/-! ### Digits -/

theorem digitValue_eq_some {base c d : Nat} : digitValue base c = some d ↔ DigitIs base c d := by
  unfold digitValue DigitIs
  simp only [Option.ite_none_right_eq_some, Option.some.injEq]
  split_ifs <;> omega

theorem digitsFrom_append (base n : Nat) (cs cs' : List Nat) :
    digitsFrom base n (cs ++ cs') = (digitsFrom base n cs).bind fun m => digitsFrom base m cs' := by
  induction cs generalizing n with
  | nil => rfl
  | cons c cs ih =>
    simp only [List.cons_append, digitsFrom]
    cases digitValue base c with
    | none => rfl
    | some d => exact ih _

theorem digitsFrom_singleton {base n c m : Nat} :
    digitsFrom base n [c] = some m ↔ ∃ d, DigitIs base c d ∧ m = base * n + d := by
  simp only [← digitValue_eq_some, digitsFrom]
  cases digitValue base c <;> simp [eq_comm, Nat.mul_comm]

/-- The digits before the last one are a value themselves, unless there are none. -/
theorem digits_append_singleton {base c m : Nat} {cs : List Nat} :
    digits base (cs ++ [c]) = some m ↔
      ∃ d, DigitIs base c d ∧
        ((cs = [] ∧ m = d) ∨ ∃ n, digits base cs = some n ∧ m = base * n + d) := by
  cases cs with
  | nil => simpa [digits] using digitsFrom_singleton (n := 0)
  | cons c' cs =>
    have hmore : digits base (c' :: cs ++ [c]) =
        (digits base (c' :: cs)).bind fun n => digitsFrom base n [c] :=
      digitsFrom_append base 0 (c' :: cs) [c]
    simp only [hmore, Option.bind_eq_some_iff, digitsFrom_singleton, reduceCtorEq, false_and,
      false_or]
    exact ⟨fun ⟨n, hn, d, hd, hm⟩ => ⟨d, hd, n, hn, hm⟩,
      fun ⟨d, hd, n, hn, hm⟩ => ⟨n, hn, d, hd, hm⟩⟩

theorem digits_eq_some {base n : Nat} {cs : List Nat} :
    digits base cs = some n ↔ DigitsText base cs n := by
  constructor
  · intro h
    induction cs using List.reverseRecOn generalizing n with
    | nil => simp [digits] at h
    | append_singleton cs c ih =>
      obtain ⟨d, hd, ⟨rfl, rfl⟩ | ⟨m, hm, rfl⟩⟩ := digits_append_singleton.mp h
      · exact .one hd
      · exact .more (ih hm) hd
  · intro h
    induction h with
    | @one c d hd => exact digits_append_singleton (cs := []).mpr ⟨d, hd, .inl ⟨rfl, rfl⟩⟩
    | @more _ _ n d _ hd ih => exact digits_append_singleton.mpr ⟨d, hd, .inr ⟨n, ih, rfl⟩⟩

/-! ### Numerals -/

/-- A digit string begins with a digit. -/
theorem digits_eq_none {base c : Nat} {cs : List Nat} (hc : digitValue base c = none) :
    digits base (c :: cs) = none := by
  simp only [digits, List.isEmpty_cons, Bool.false_eq_true, if_false, digitsFrom, hc]

/-- `b` and `x` are no octal digits, so an octal numeral is no binary or hexadecimal one. -/
theorem numeralBody_octal {cs : List Nat} {n : Nat} (h : digits 8 cs = some n) :
    numeralBody (0x30 :: cs) = some n := by
  unfold numeralBody
  split
  case h_1 heq | h_2 heq =>
    rw [List.tail_eq_of_cons_eq heq, digits_eq_none rfl] at h
    cases h
  case h_3 heq =>
    rw [List.tail_eq_of_cons_eq heq] at h
    cases h
  case h_4 heq => rwa [← List.tail_eq_of_cons_eq heq]
  case h_5 hzero => exact absurd rfl (hzero cs)

theorem numeralBody_decimal {c : Nat} (hc : c ≠ 0x30) (cs : List Nat) :
    numeralBody (c :: cs) = digits 10 (c :: cs) := by
  unfold numeralBody
  split
  case h_5 => rfl
  all_goals exact absurd (List.head_eq_of_cons_eq ‹_›) hc

theorem numeralBody_eq_some {cs : List Nat} {n : Nat} :
    numeralBody cs = some n ↔ BodyText cs n := by
  constructor
  · intro h
    unfold numeralBody at h
    split at h
    · exact .binary (digits_eq_some.mp h)
    · exact .hexadecimal (digits_eq_some.mp h)
    · obtain rfl := Option.some.inj h
      exact .zero
    · exact .octal (digits_eq_some.mp h)
    case h_5 hzero =>
      cases cs with
      | nil => simp [digits] at h
      | cons c cs => exact .decimal (fun hc => hzero cs (by rw [hc])) (digits_eq_some.mp h)
  · intro h
    cases h with
    | binary h | hexadecimal h => exact digits_eq_some.mpr h
    | octal h => exact numeralBody_octal (digits_eq_some.mpr h)
    | zero => rfl
    | decimal hc h => rw [numeralBody_decimal hc, digits_eq_some.mpr h]

theorem inIntRange_eq_some {v w : Int} :
    inIntRange v = some w ↔ intMin ≤ v ∧ v ≤ intMax ∧ w = v := by
  unfold inIntRange
  split <;> simp_all [eq_comm]

/-- No body begins with `-`. -/
theorem not_bodyText_minus {cs : List Nat} {n : Nat} : ¬ BodyText (0x2D :: cs) n := by
  rw [← numeralBody_eq_some, numeralBody_decimal (by decide), digits_eq_none rfl]
  exact Option.some_ne_none n ∘ Eq.symm

theorem numeral_minus (cs : List Nat) :
    numeral (0x2D :: cs) = (numeralBody cs).bind fun n => inIntRange (-n) := by
  rw [numeral]
  cases numeralBody cs <;> rfl

theorem numeral_plain {cs : List Nat} (h : ∀ cs', cs ≠ 0x2D :: cs') :
    numeral cs = (numeralBody cs).bind fun n => inIntRange n := by
  unfold numeral
  split
  · exact absurd rfl (h _)
  · cases numeralBody cs <;> rfl

theorem numeral_eq_some {cs : List Nat} {v : Int} : numeral cs = some v ↔ NumeralText cs v := by
  constructor
  · intro h
    by_cases hminus : ∃ cs', cs = 0x2D :: cs'
    · obtain ⟨cs', rfl⟩ := hminus
      rw [numeral_minus, Option.bind_eq_some_iff] at h
      obtain ⟨n, hn, hv⟩ := h
      obtain ⟨hlow, -, rfl⟩ := inIntRange_eq_some.mp hv
      exact .negative (numeralBody_eq_some.mp hn) (by unfold intMin at hlow; omega)
    · rw [numeral_plain (not_exists.mp hminus), Option.bind_eq_some_iff] at h
      obtain ⟨n, hn, hv⟩ := h
      obtain ⟨-, hhigh, rfl⟩ := inIntRange_eq_some.mp hv
      exact .plain (numeralBody_eq_some.mp hn) (by unfold intMax at hhigh; omega)
  · intro h
    cases h with
    | @plain cs n h hn =>
      have hminus : ∀ cs', cs ≠ 0x2D :: cs' := fun _ heq => not_bodyText_minus (heq ▸ h)
      rw [numeral_plain hminus, numeralBody_eq_some.mpr h]
      exact inIntRange_eq_some.mpr ⟨by unfold intMin; omega, by unfold intMax; omega, rfl⟩
    | @negative cs n h hn =>
      rw [numeral_minus, numeralBody_eq_some.mpr h]
      exact inIntRange_eq_some.mpr ⟨by unfold intMin; omega, by unfold intMax; omega, rfl⟩

/-! ### Integer literals -/

theorem literalInteger_eq_some {cs : List Nat} {w : Word} :
    literalInteger cs = some w ↔ ∃ t v, cs = 0x24 :: t ∧ NumeralText t v ∧ w = wrap32 v := by
  constructor
  · intro h
    unfold literalInteger at h
    split at h
    next t =>
      obtain ⟨v, hv, rfl⟩ := Option.map_eq_some_iff.mp h
      exact ⟨t, v, rfl, numeral_eq_some.mp hv, rfl⟩
    · cases h
  · rintro ⟨t, v, rfl, hv, rfl⟩
    exact Option.map_eq_some_iff.mpr ⟨v, numeral_eq_some.mpr hv, rfl⟩

/-- A numeral without a `-` is a body in the range of an int. -/
theorem numeralText_plain {cs : List Nat} {v : Int} (hminus : ∀ cs', cs ≠ 0x2D :: cs') :
    NumeralText cs v ↔ ∃ n : Nat, BodyText cs n ∧ n ≤ 2147483647 ∧ v = n := by
  constructor
  · intro h
    cases h with
    | plain h hn => exact ⟨_, h, hn, rfl⟩
    | negative => exact absurd rfl (hminus _)
  · rintro ⟨n, h, hn, rfl⟩
    exact .plain h hn

theorem literalPointer_plain {t : List Nat} (hminus : ∀ t', t ≠ 0x2D :: t') :
    literalPointer (0x26 :: 0x24 :: t) = (numeral t).map wrap32 := by
  unfold literalPointer
  split
  case h_1 heq => exact absurd (List.tail_eq_of_cons_eq (List.tail_eq_of_cons_eq heq)) (hminus _)
  case h_2 heq => rw [List.tail_eq_of_cons_eq (List.tail_eq_of_cons_eq heq)]
  case h_3 hplain => exact absurd rfl (hplain t)

theorem literalPointer_eq_some {cs : List Nat} {w : Word} :
    literalPointer cs = some w ↔
      ∃ (t : List Nat) (n : Nat),
        cs = 0x26 :: 0x24 :: t ∧ BodyText t n ∧ n ≤ 2147483647 ∧ w = wrap32 n := by
  constructor
  · intro h
    unfold literalPointer at h
    split at h
    · cases h
    case h_2 t hminus =>
      obtain ⟨v, hv, rfl⟩ := Option.map_eq_some_iff.mp h
      obtain ⟨n, hbody, hn, rfl⟩ := (numeralText_plain hminus).mp (numeral_eq_some.mp hv)
      exact ⟨t, n, rfl, hbody, hn, rfl⟩
    · cases h
  · rintro ⟨t, n, rfl, hbody, hn, rfl⟩
    have hminus : ∀ t', t ≠ 0x2D :: t' := fun _ heq => not_bodyText_minus (heq ▸ hbody)
    rw [literalPointer_plain hminus, numeral_eq_some.mpr (.plain hbody hn), Option.map_some]

/-! ### Register names -/

theorem upperCase_eq_iff {c k : Nat} (hk : ¬ (0x61 ≤ k ∧ k ≤ 0x7A)) :
    upperCase c = k ↔ SameInEitherCase c k := by
  unfold upperCase SameInEitherCase
  split <;> omega

theorem map_upperCase_eq_iff {cs name : List Nat} (hname : ∀ k ∈ name, ¬ (0x61 ≤ k ∧ k ≤ 0x7A)) :
    cs.map upperCase = name ↔ List.Forall₂ SameInEitherCase cs name := by
  induction cs generalizing name with
  | nil => cases name <;> simp
  | cons c cs ih =>
    cases name with
    | nil => simp
    | cons k name =>
      obtain ⟨hk, hname⟩ := List.forall_mem_cons.mp hname
      rw [List.map_cons, List.cons.injEq, List.forall₂_cons, upperCase_eq_iff hk, ih hname]

theorem registerNamed_eq_some {cs : List Nat} {r : Reg} :
    registerNamed cs = some r ↔ cs.map upperCase = registerText r := by
  constructor
  · intro h
    obtain ⟨p, hp, rfl⟩ := Option.map_eq_some_iff.mp h
    have hname : p.1 = cs.map upperCase := by simpa using List.find?_some hp
    have htext : ∀ p ∈ registerNames, p.1 = registerText p.2 := by decide
    rw [← hname, htext p (List.mem_of_find?_eq_some hp)]
  · intro h
    rw [registerNamed, h]
    cases r <;> rfl

/-- Settles O20: each function has the values of its grammar, form by form. -/
theorem numeralsAndNamesFollowTheGrammar : Obligations.NumeralsAndNamesFollowTheGrammar := by
  unfold Obligations.NumeralsAndNamesFollowTheGrammar
  refine ⟨fun _ _ => numeral_eq_some, fun _ _ => literalInteger_eq_some,
    fun _ _ => literalPointer_eq_some, fun cs r => ?_⟩
  rw [registerNamed_eq_some, map_upperCase_eq_iff]
  cases r <;> decide

end Sys2Proof.Machine
end

section
/-! PROOFS. The phases of one cycle and how it ends, and the statements of 40_cycle.md. -/

namespace Sys2Proof.Machine

/-! ### The top of the cycle (40_cycle.md R147, R148) -/

theorem step_of_halted {s : State} (h : s.halted = true) : step s = .next s := if_pos h

theorem step_of_haltRequested {s : State} (hh : s.halted = false) (hr : s.haltRequested = true) :
    step s = .next { s with halted := true } := by
  rw [step, if_neg (by simp [hh]), if_pos hr]

/-- The host asks for a halt exactly from a breakpoint at IP whose callback asks for one
(40_cycle.md R147). -/
theorem haltRequested_iff (s : State) :
    s.haltRequested = true ↔
      ∃ b ∈ s.cfg.breakpoints, b.address = (s.reg .ip).toInt ∧ b.halts = true := by
  simp only [State.haltRequested, List.any_eq_true, Bool.and_eq_true, decide_eq_true_eq]

/-- Settles O9: the hook is asked before the fetch, and answers as the breakpoints at IP do. -/
theorem hostHaltRequestOnlyHalts : Obligations.HostHaltRequestOnlyHalts := by
  unfold Obligations.HostHaltRequestOnlyHalts
  refine fun s hh => ⟨fun hb => step_of_haltRequested hh ((haltRequested_iff s).mpr hb),
    fun hb => Bool.eq_false_iff.mpr fun hr => ?_⟩
  obtain ⟨b, hmem, haddr, hhalts⟩ := (haltRequested_iff s).mp hr
  exact Bool.false_ne_true ((hb b hmem haddr).symm.trans hhalts)

theorem run_succ_of_next {M : Host.Core} {s s' : M.State} (h : M.step s = .next s') (n : Nat) :
    M.run (n + 1) s = M.run n s' := by
  rw [Host.Core.run, h]

/-- Any number of steps leaves a halted machine as it is (40_cycle.md R148). -/
theorem run_of_halted {s : State} (h : s.halted = true) (n : Nat) :
    Sys2Proof.core.run n s = .next s := by
  induction n with
  | zero => rfl
  | succ n ih => exact (run_succ_of_next (M := Sys2Proof.core) (step_of_halted h) n).trans ih

/-- Settles O8: by induction on the number of steps. -/
theorem haltedMachineStaysAsItIs : Obligations.HaltedMachineStaysAsItIs := by
  unfold Obligations.HaltedMachineStaysAsItIs
  exact fun s h => ⟨run_of_halted h, State.stepReturn_halted h, rfl⟩

/-! ### Fetch and arguments (40_cycle.md R141-R143) -/

section Running

variable {s : State} (hh : s.halted = false) (hr : s.haltRequested = false)
include hh hr

theorem step_of_fetchOp_error {f : Fault} (hf : s.fetchOp = .error f) :
    step s = .next (s.takeFault (opcodeAddress s) f) := by
  simp only [step, hh, hr, hf, Bool.false_eq_true, if_false, opcodeAddress]

theorem step_of_fetchRest_error {o : Op} {f : Fault} (ho : s.fetchOp = .ok o)
    (hf : s.fetchRest o = .error f) :
    step s = .next (s.pastOpcode.takeFault (opcodeAddress s) f) := by
  simp only [step, hh, hr, ho, hf, Bool.false_eq_true, if_false, opcodeAddress]

theorem decodedInstr_of_fetched {o : Op} {i : Instr} (ho : s.fetchOp = .ok o)
    (hi : s.fetchRest o = .ok i) :
    s.decodedInstr = some ⟨opcodeAddress s, s.cfg.opcode o, i, i.length⟩ := by
  simp only [State.decodedInstr, hh, hr, ho, hi, Bool.or_self, Bool.false_eq_true, if_false,
    opcodeAddress]

end Running

theorem fetchOp_of_fetchFault {s : State} {f : Fault}
    (h : fetchFault s (opcodeAddress s) 4 = some f) : s.fetchOp = .error f := by
  rw [State.fetchOp, ← opcodeAddress, decodeOp, readInt_fetch, Int.natCast_zero, Int.add_zero, h]

theorem fetchOp_of_unknown {s : State} (h : fetchFault s (opcodeAddress s) 4 = none)
    (hv : s.cfg.opOf (wordAt s (opcodeAddress s).toNat) = none) :
    s.fetchOp = .error (.invalidOpcode (wordAt s (opcodeAddress s).toNat)) := by
  rw [State.fetchOp, ← opcodeAddress, decodeOp, readInt_fetch, Int.natCast_zero, Int.add_zero, h]
  simp only [hv, decodeFault]

/-- Settles O10: the two ways in which the opcode's fetch raises. -/
theorem failedFetchRecordsItsFault : Obligations.FailedFetchRecordsItsFault := by
  unfold Obligations.FailedFetchRecordsItsFault
  intro s hh hr
  cases hf : fetchFault s (opcodeAddress s) 4 with
  | some f => exact step_of_fetchOp_error hh hr (fetchOp_of_fetchFault hf)
  | none => exact fun hv => step_of_fetchOp_error hh hr (fetchOp_of_unknown hf hv)

/-- Settles O11: the fault is taken on the state whose IP is past the opcode. -/
theorem failedArgumentLeavesIpPastTheOpcode : Obligations.FailedArgumentLeavesIpPastTheOpcode := by
  unfold Obligations.FailedArgumentLeavesIpPastTheOpcode
  exact fun s o f hh hr ho hf => step_of_fetchRest_error hh hr ho hf

/-! ### The decoded instruction and what `Step()` returns (40_cycle.md R149, R150) -/

theorem op_build (o : Op) (vs : Vals o.format.kinds) : (o.build vs).op = o := by
  cases o <;> rfl

theorem op_of_decodeRest {ε : Type} {c : Config} {inj : ContentError → ε} {rd : Reader ε} {o : Op}
    {i : Instr} (h : decodeRest c inj rd o = .ok i) : i.op = o := by
  rw [decodeRest] at h
  split at h
  case h_1 => cases h
  case h_2 vs _ =>
    obtain rfl := Except.ok.inj h
    exact op_build o vs

/-- A checked fetch that decodes names the instruction's opcode, then reads its arguments. -/
theorem fetched_of_decodeFrom {s : State} {i : Instr}
    (h : decodeFrom s.cfg decodeFault (s.fetchReader (opcodeAddress s)) = .ok i) :
    s.fetchOp = .ok i.op ∧ s.fetchRest i.op = .ok i := by
  rw [decodeFrom] at h
  split at h
  case h_1 => cases h
  case h_2 o ho =>
    obtain rfl := op_of_decodeRest h
    exact ⟨ho, h⟩

/-- With no earlier record to set aside, `Step()` returns by the state after the cycle: the fault in
its record, or else what the cycle decoded. -/
theorem stepReturn_of_step {s t : State} (hs : s.fault = none) (h : step s = .next t) :
    (∀ r, t.fault = some r → s.stepReturn = .fault r) ∧
      (t.fault = none → ∀ d, s.decodedInstr = some d → s.stepReturn = .decoded d) := by
  have hclear : { s with fault := none } = s := by rw [← hs]
  rw [State.stepReturn, hclear, h]
  exact ⟨fun r hf => by simp only [hf], fun hf d hd => by simp only [hf, hd]⟩

/-- Settles O6: the decoder is the fetch's two phases, one after the other. -/
theorem stepRunsTheDecodedInstruction : Obligations.StepRunsTheDecodedInstruction := by
  unfold Obligations.StepRunsTheDecodedInstruction
  intro s i hh hr h
  obtain ⟨ho, hi⟩ := fetched_of_decodeFrom h
  have hstep := step_of_fetched hh hr ho hi
  refine ⟨hstep, fun t hs ht => ?_⟩
  obtain ⟨hfault, hdecoded⟩ := stepReturn_of_step hs (hstep.trans ht)
  exact ⟨hfault, fun hf => hdecoded hf _ (decodedInstr_of_fetched hh hr ho hi)⟩

/-! ### How the cycle of a decoded instruction ends (40_cycle.md R144-R146) -/

/-- The statements of every instruction but HLT ask for no halt (45_system.md R250). -/
theorem statements_of_ne_hlt {i : Instr} (h : i ≠ .hlt) : ∃ body, statements i = thenGoOn body := by
  cases i
  case hlt => exact absurd rfl h
  all_goals exact ⟨_, rfl⟩

theorem thenGoOn_ok {body : Act Unit} {s u : State} {q : Bool}
    (h : thenGoOn body s = .ok q u) : q = false := by
  rw [thenGoOn_apply] at h
  split at h <;> cases h
  rfl

/-- Statements that run to their end ask for the halt exactly if they are HLT's. -/
theorem haltAsked_of_ok {i : Instr} {s u : State} {q : Bool} (h : statements i s = .ok q u) :
    q = decide (i = .hlt) := by
  by_cases hi : i = .hlt
  · subst hi
    cases h
    rfl
  · obtain ⟨body, hbody⟩ := statements_of_ne_hlt hi
    rw [hbody] at h
    rw [thenGoOn_ok h, decide_eq_false hi]

/-- HLT's statements never raise (45_system.md R250). -/
theorem ne_hlt_of_error {i : Instr} {s u : State} {f : Fault} (h : statements i s = .error f u) :
    i ≠ .hlt := by
  rintro rfl
  cases h

theorem pastFetchRegion_iff (s : State) (a0 : Int) :
    s.pastFetchRegion a0 = true ↔
      ∃ fr, s.resolve a0 = some fr ∧ (fr.stop : Int) ≤ (s.reg .ip).toInt := by
  rw [State.pastFetchRegion]
  cases s.resolve a0 <;> simp

/-- The halt check (40_cycle.md R146): PC's count moves neither IP nor the regions. -/
theorem retire_halted_iff (s : State) (a0 : Int) (q : Bool) :
    (s.retire a0 q).halted = true ↔
      s.halted = true ∨ q = true ∨
        ∃ fr, s.resolve a0 = some fr ∧ (fr.stop : Int) ≤ (s.reg .ip).toInt := by
  rw [State.retire_halted, Bool.or_eq_true, Bool.or_eq_true, or_assoc, pastFetchRegion_iff,
    State.resolve_setReg, State.reg_setReg_of_ne _ _ (by decide)]

/-- An instruction whose statements run to their end completes. -/
theorem completed_of_ok {i : Instr} {s u : State} {q : Bool}
    (hu : statements i (s.advance i) = .ok q u) :
    Completed s (u.retire (opcodeAddress s) q) q := by
  have hfinal := Act.final_of_ok hu
  have hpc : u.reg .pc = s.reg .pc := kept_of_final hfinal (by decide) (not_mayChange_pc i)
  obtain ⟨hhalted, hfault⟩ := kept_of_final hfinal (by decide) (not_mayChange_run i)
  have hhost : hostKept s u := kept_of_final hfinal (by decide) (not_mayChange_host i)
  have ⟨_, hregions, hlen, _⟩ := hhost
  have hip : (u.retire (opcodeAddress s) q).reg .ip = u.reg .ip :=
    (State.retire_reg ..).trans (if_neg (by decide))
  refine ⟨hfault, ?pc, ?halt, hhost⟩
  case pc => rw [State.retire_reg, if_pos rfl, hpc]
  case halt => rw [retire_halted_iff, hhalted, State.resolve_congr hregions hlen, hip]

/-- An instruction one of whose statements raises has its fault taken. -/
theorem faultTaken_of_error {i : Instr} {s u : State} {f : Fault}
    (hu : statements i (s.advance i) = .error f u) :
    FaultTaken s (u.takeFault (opcodeAddress s) f) f := by
  have hfinal := Act.final_of_error hu
  exact ⟨rfl, rfl, kept_of_final hfinal (by decide) (not_mayChange_pc i),
    kept_of_final hfinal (by decide) (not_mayChange_host i)⟩

/-- Settles O13: the statements run to their end, or one of them raises. -/
theorem everyInstructionCompletesOrFaults : Obligations.EveryInstructionCompletesOrFaults := by
  unfold Obligations.EveryInstructionCompletesOrFaults
  intro i s
  obtain ⟨q, u, hu, he⟩ | ⟨f, u, hu, he⟩ := exec_cases i s
  · exact ⟨_, he, .inl (haltAsked_of_ok hu ▸ completed_of_ok hu)⟩
  · exact ⟨_, he, .inr ⟨ne_hlt_of_error hu, f, faultTaken_of_error hu⟩⟩

/-! ### The kinds of end (40_cycle.md R151) -/

section EndKind

variable {s t : State} (hs : s.halted = false) (ht : t.halted = true)
include hs ht

theorem endKind_of_fault {r : FaultRecord} (hf : t.fault = some r) :
    endKind s t = some .faulted := by
  simp [endKind, hs, ht, hf]

theorem endKind_of_haltRequested (hf : t.fault = none) (hr : s.haltRequested = true) :
    endKind s t = some .byHost := by
  simp [endKind, hs, ht, hf, hr]

theorem endKind_of_decoded (hf : t.fault = none) (hr : s.haltRequested = false) {d : DecodedInstr}
    (hd : s.decodedInstr = some d) :
    endKind s t = if d.instr = .hlt then some .byHlt else some .atRegionEnd := by
  simp [endKind, hs, ht, hf, hr, hd]

end EndKind

/-- Settles O48: each end of a step that halts is of one kind, and an instruction that completes
halts by its own request, as only HLT does, or at its region's end. -/
theorem runsEndInOneOfFourWays : Obligations.RunsEndInOneOfFourWays := by
  unfold Obligations.RunsEndInOneOfFourWays
  intro s t hs hfault hstep ht
  cases stepEnd_of_step hstep with
  | halted h => exact absurd h (by simp [hs])
  | hostHalt _ hr => exact .inl ⟨endKind_of_haltRequested hs ht hfault hr, hr, rfl⟩
  | opcodeFault _ hr _ => exact .inr (.inl ⟨endKind_of_fault hs ht rfl, hr, _, rfl⟩)
  | argumentFault _ hr _ _ => exact .inr (.inl ⟨endKind_of_fault hs ht rfl, hr, _, rfl⟩)
  | faulted _ hr _ _ _ => exact .inr (.inl ⟨endKind_of_fault hs ht rfl, hr, _, rfl⟩)
  | @completed _ hr o i q u ho hi hu =>
    obtain ⟨hkept, -, hhalt, -⟩ := completed_of_ok hu
    have hnone := hkept.trans hfault
    have hdecoded := decodedInstr_of_fetched hs hr ho hi
    have hkind := endKind_of_decoded hs ht hnone hr hdecoded
    refine .inr (.inr ⟨hnone, hr, _, hdecoded, ?_⟩)
    by_cases hhlt : i = .hlt
    · exact .inl ⟨hkind.trans (if_pos hhlt), hhlt⟩
    · refine .inr ⟨hkind.trans (if_neg hhlt), hhlt, ?_⟩
      have hq : q = false := (haltAsked_of_ok hu).trans (decide_eq_false hhlt)
      simpa [hs, hq] using hhalt.mp ht

end Sys2Proof.Machine
end

section
/-! PROOFS. The one-pass evaluator of expressions against the grammar
(41_data_movement.md R168, R169). -/

namespace Sys2Proof.Machine

/-! ### Terms that are words -/

theorem DigitsText.char_bound {base n : Nat} {cs : List Nat} (h : DigitsText base cs n) :
    ∀ c ∈ cs, 0x30 ≤ c := by
  have hdigit : ∀ {c d : Nat}, DigitIs base c d → 0x30 ≤ c := by
    rintro c d ⟨-, hc⟩
    omega
  induction h with
  | one hc => exact List.forall_mem_singleton.mpr (hdigit hc)
  | more _ hc ih =>
    exact List.forall_mem_append.mpr ⟨ih, List.forall_mem_singleton.mpr (hdigit hc)⟩

theorem BodyText.char_bound {n : Nat} {cs : List Nat} (h : BodyText cs n) :
    ∀ c ∈ cs, 0x30 ≤ c := by
  cases h with
  | binary h | hexadecimal h =>
    exact List.forall_mem_cons.mpr ⟨by decide, List.forall_mem_cons.mpr ⟨by decide, h.char_bound⟩⟩
  | octal h => exact List.forall_mem_cons.mpr ⟨by decide, h.char_bound⟩
  | zero => decide
  | decimal _ h => exact h.char_bound

/-- The characters of a numeral come after `+`, the last of the characters that end a word. -/
theorem NumeralText.char_bound {v : Int} {cs : List Nat} (h : NumeralText cs v) :
    ∀ c ∈ cs, 0x2B < c := by
  have hbody : ∀ {cs n}, BodyText cs n → ∀ c ∈ cs, 0x2B < c := fun h c hc =>
    Nat.lt_of_lt_of_le (by decide) (h.char_bound c hc)
  cases h with
  | plain h => exact hbody h
  | negative h => exact List.forall_mem_cons.mpr ⟨by decide, hbody h⟩

theorem upperCase_le (c : Nat) : upperCase c ≤ c := by
  unfold upperCase
  split <;> omega

theorem registerNamed_char_bound {cs : List Nat} {r : Reg} (h : registerNamed cs = some r) :
    ∀ c ∈ cs, 0x2B < c := by
  intro c hc
  have hmem : upperCase c ∈ registerText r := registerNamed_eq_some.mp h ▸ List.mem_map_of_mem hc
  have hname : ∀ k ∈ registerText r, 0x2B < k := by cases r <;> decide
  exact Nat.lt_of_lt_of_le (hname _ hmem) (upperCase_le c)

/-- A register name begins with a letter. -/
theorem registerNamed_begins {cs : List Nat} {r : Reg} (h : registerNamed cs = some r) :
    ∃ c cs', cs = c :: cs' ∧ 0x41 ≤ c := by
  have hname := registerNamed_eq_some.mp h
  have hletter : ∃ k ks, registerText r = k :: ks ∧ 0x41 ≤ k := by
    cases r <;> exact ⟨_, _, rfl, by decide⟩
  obtain ⟨k, ks, hk, hle⟩ := hletter
  obtain ⟨c, cs', rfl, hc, -⟩ := List.map_eq_cons_iff.mp (hname.trans hk)
  exact ⟨c, cs', rfl, hle.trans (hc ▸ upperCase_le c)⟩

/-- No numeral begins with a letter. -/
theorem numeral_of_letter {c : Nat} (hc : 0x41 ≤ c) (cs : List Nat) : numeral (c :: cs) = none := by
  have hdigit : digitValue 10 c = none :=
    Option.eq_none_iff_forall_ne_some.mpr fun d hd => by
      obtain ⟨hlt, hchar⟩ := digitValue_eq_some.mp hd
      omega
  rw [numeral_plain fun cs' h => by have := List.head_eq_of_cons_eq h; omega,
    numeralBody_decimal (by omega), digits_eq_none hdigit, Option.bind_none]

/-- The value of a word is a register's or a numeral's, and no word is both. -/
theorem termValue_eq_some {x : Reg → Word} {cs : List Nat} {v : Int} :
    termValue x cs = some v ↔
      (∃ r, registerNamed cs = some r ∧ v = (x r).toInt) ∨ numeral cs = some v := by
  rw [termValue]
  cases hr : registerNamed cs with
  | none => simp
  | some r =>
    obtain ⟨c, cs', rfl, hc⟩ := registerNamed_begins hr
    simp [numeral_of_letter hc, eq_comm]

theorem termText_of_termValue {x : Reg → Word} {t : List Byte} {v : Int}
    (h : termValue x (t.map BitVec.toNat) = some v) : TermText x t v := by
  obtain ⟨r, hr, rfl⟩ | hn := termValue_eq_some.mp h
  · exact .register hr
  · exact .numeral hn

theorem termValue_char_bound {x : Reg → Word} {cs : List Nat} {v : Int}
    (h : termValue x cs = some v) : ∀ c ∈ cs, 0x2B < c := by
  obtain ⟨r, hr, -⟩ | hn := termValue_eq_some.mp h
  · exact registerNamed_char_bound hr
  · exact (numeral_eq_some.mp hn).char_bound

theorem termValue_ne_nil {x : Reg → Word} {cs : List Nat} {v : Int}
    (h : termValue x cs = some v) : cs ≠ [] := by
  rintro rfl
  cases h

/-! ### Words and the characters that end them -/

/-- The text is empty or begins with a character that ends a word: white space, `+` or a
parenthesis. -/
def EndsWord (bs : List Byte) : Prop :=
  ∀ b ∈ bs.head?, b ∈ ([0x20, 0x09, 0x2B, 0x28, 0x29] : List Byte)

theorem endsWord_nil : EndsWord [] := nofun

theorem endsWord_cons {b : Byte} (h : b ∈ ([0x20, 0x09, 0x2B, 0x28, 0x29] : List Byte))
    (bs : List Byte) : EndsWord (b :: bs) := by
  rintro _ ⟨⟩
  exact h

/-- White space before a text that ends a word ends it too. -/
theorem EndsWord.blank_append {a bs : List Byte} (ha : isBlankText a) (h : EndsWord bs) :
    EndsWord (a ++ bs) := by
  cases a with
  | nil => exact h
  | cons b a =>
    refine endsWord_cons ?_ _
    obtain rfl | rfl := ha b List.mem_cons_self <;> decide

theorem flushWord_of_ne_nil {cs : List Nat} (h : cs ≠ []) (ts : List Token) :
    flushWord cs ts = .word cs :: ts :=
  if_neg (by simpa using h)

theorem tokensFrom_blank {b : Byte} (h : b = 0x20 ∨ b = 0x09) (cs : List Nat) (bs : List Byte) :
    tokensFrom cs (b :: bs) = flushWord cs (tokens bs) := by
  obtain rfl | rfl := h <;> rfl

/-- The text that ends a word is read as if the word were not there. -/
theorem tokensFrom_of_endsWord {bs : List Byte} (h : EndsWord bs) (cs : List Nat) :
    tokensFrom cs bs = flushWord cs (tokens bs) := by
  cases bs with
  | nil => rfl
  | cons b bs =>
    have hb := h b rfl
    simp only [List.mem_cons, List.not_mem_nil, or_false] at hb
    obtain rfl | rfl | rfl | rfl | rfl := hb <;> rfl

/-- Characters after `+` belong to the word. -/
theorem tokensFrom_append {t : List Byte} (h : ∀ c ∈ t.map BitVec.toNat, 0x2B < c) (cs : List Nat)
    (bs : List Byte) : tokensFrom cs (t ++ bs) = tokensFrom (cs ++ t.map BitVec.toNat) bs := by
  induction t generalizing cs with
  | nil => simp
  | cons b t ih =>
    obtain ⟨hb, ht⟩ := List.forall_mem_cons.mp h
    rw [List.cons_append, tokensFrom, if_neg (by omega), if_neg (by omega), if_neg (by omega),
      if_neg (by omega), ih ht, List.map_cons, List.append_assoc, List.singleton_append]

theorem tokens_blank_append {a : List Byte} (ha : isBlankText a) (bs : List Byte) :
    tokens (a ++ bs) = tokens bs := by
  induction a with
  | nil => rfl
  | cons b a ih =>
    obtain ⟨hb, ha⟩ := List.forall_mem_cons.mp ha
    exact (tokensFrom_blank hb [] _).trans (ih ha)

/-! ### What the evaluator's state must be for it to answer, by the next token -/

section Evaluation

variable {term : List Nat → Option Int} {ended : Bool} {n : Nat} {acc u : Int} {ts : List Token}

theorem evalTokens_true_plus : evalTokens term true n acc (.plus :: ts) =
    evalTokens term false n acc ts := by
  cases n <;> rfl

theorem evalTokens_nil (h : evalTokens term ended n acc [] = some u) :
    ended = true ∧ n = 0 ∧ acc = u := by
  cases ended <;> cases n <;> simp_all [evalTokens]

theorem evalTokens_word {cs : List Nat}
    (h : evalTokens term ended n acc (.word cs :: ts) = some u) :
    ended = false ∧ ∃ v, term cs = some v ∧ evalTokens term true n (acc + v) ts = some u := by
  cases ended with
  | true => simp [evalTokens] at h
  | false =>
    rw [evalTokens] at h
    cases hv : term cs with
    | none => simp [hv] at h
    | some v => exact ⟨rfl, v, rfl, by simpa [hv] using h⟩

theorem evalTokens_plus (h : evalTokens term ended n acc (.plus :: ts) = some u) :
    ended = true ∧ evalTokens term false n acc ts = some u := by
  cases ended with
  | true => exact ⟨rfl, evalTokens_true_plus.symm.trans h⟩
  | false => simp [evalTokens] at h

theorem evalTokens_lpar (h : evalTokens term ended n acc (.lpar :: ts) = some u) :
    ended = false ∧ evalTokens term false (n + 1) acc ts = some u := by
  cases ended with
  | true => simp [evalTokens] at h
  | false => exact ⟨rfl, h⟩

theorem evalTokens_rpar (h : evalTokens term ended n acc (.rpar :: ts) = some u) :
    ended = true ∧ ∃ m, n = m + 1 ∧ evalTokens term true m acc ts = some u := by
  cases ended <;> cases n <;> simp_all [evalTokens]

end Evaluation

/-! ### Every text of the grammar has its value -/

/-- Where a term is due, the text is read as one, which adds its value to the sum, whatever follows
that ends its last word. -/
def Adds (x : Reg → Word) (t : List Byte) (v : Int) : Prop :=
  ∀ (n : Nat) (acc : Int) (bs : List Byte), EndsWord bs →
    evalTokens (termValue x) false n acc (tokens (t ++ bs)) =
      evalTokens (termValue x) true n (acc + v) (tokens bs)

section Grammar

variable {x : Reg → Word}

theorem adds_word {t : List Byte} {v : Int} (h : termValue x (t.map BitVec.toNat) = some v) :
    Adds x t v := by
  intro n acc bs hbs
  rw [tokens, tokensFrom_append (termValue_char_bound h), List.nil_append,
    tokensFrom_of_endsWord hbs, flushWord_of_ne_nil (termValue_ne_nil h), evalTokens, h]

theorem Adds.paren {e : List Byte} {v : Int} (h : Adds x e v) :
    Adds x ([0x28] ++ e ++ [0x29]) v := by
  intro n acc bs _
  calc evalTokens (termValue x) false n acc (tokens ([0x28] ++ e ++ [0x29] ++ bs))
      = evalTokens (termValue x) false (n + 1) acc (tokens (e ++ 0x29 :: bs)) := by
        simp only [List.append_assoc, List.singleton_append]; rfl
    _ = evalTokens (termValue x) true (n + 1) (acc + v) (tokens (0x29 :: bs)) :=
        h _ _ _ (endsWord_cons (by decide) bs)
    _ = evalTokens (termValue x) true n (acc + v) (tokens bs) := rfl

/-- White space around a term changes nothing. -/
theorem Adds.blanks {a t b : List Byte} {v : Int} (ha : isBlankText a) (ht : Adds x t v)
    (hb : isBlankText b) : Adds x (a ++ t ++ b) v := by
  intro n acc bs hbs
  rw [List.append_assoc, List.append_assoc, tokens_blank_append ha,
    ht n acc _ (hbs.blank_append hb), tokens_blank_append hb]

theorem Adds.plus {e t : List Byte} {v w : Int} (he : Adds x e v) (ht : Adds x t w) :
    Adds x (e ++ [0x2B] ++ t) (v + w) := by
  intro n acc bs hbs
  calc evalTokens (termValue x) false n acc (tokens (e ++ [0x2B] ++ t ++ bs))
      = evalTokens (termValue x) true n (acc + v) (tokens (0x2B :: (t ++ bs))) := by
        rw [← he _ _ _ (endsWord_cons (by decide) _), List.append_assoc, List.append_assoc]; rfl
    _ = evalTokens (termValue x) false n (acc + v) (tokens (t ++ bs)) :=
        evalTokens_true_plus
    _ = evalTokens (termValue x) true n (acc + (v + w)) (tokens bs) := by
        rw [ht _ _ _ hbs, Int.add_assoc]

mutual

theorem ExprText.adds {e : List Byte} {v : Int} : ExprText x e v → Adds x e v
  | .first ha ht hb => ht.adds.blanks ha hb
  | .more he ha ht hb => by
    simpa only [List.append_assoc] using he.adds.plus (Adds.blanks ha ht.adds hb)

theorem TermText.adds {t : List Byte} {v : Int} : TermText x t v → Adds x t v
  | .register h => adds_word (termValue_eq_some.mpr (.inl ⟨_, h, rfl⟩))
  | .numeral h => adds_word (termValue_eq_some.mpr (.inr h))
  | .paren h => h.adds.paren

end

/-! ### Every text with a value is of the grammar -/

/-- A text after which a term is due, with its value: white space, or an expression, `+` and white
space. -/
inductive Pending (x : Reg → Word) : List Byte → Int → Prop where
  | start {a : List Byte} (ha : isBlankText a) : Pending x a 0
  | plus {e a : List Byte} {v : Int} (he : ExprText x e v) (ha : isBlankText a) :
      Pending x (e ++ [0x2B] ++ a) v

/-- A text that opens `n` parentheses, each where a term is due, with the sum of its terms. -/
inductive Opened (x : Reg → Word) : Nat → List Byte → Int → Prop where
  | none : Opened x 0 [] 0
  | paren {n : Nat} {p q : List Byte} {v w : Int} (hp : Opened x n p v) (hq : Pending x q w) :
      Opened x (n + 1) (p ++ q ++ [0x28]) (v + w)

/-- The text the evaluator has read, by its state: whether a term has just ended, how many
parentheses are open, and the sum. -/
inductive Scanned (x : Reg → Word) : Bool → Nat → Int → List Byte → Prop where
  | termDue {n : Nat} {p q : List Byte} {v w : Int} (hp : Opened x n p v) (hq : Pending x q w) :
      Scanned x false n (v + w) (p ++ q)
  | termEnded {n : Nat} {p e : List Byte} {v w : Int} (hp : Opened x n p v)
      (he : ExprText x e w) : Scanned x true n (v + w) (p ++ e)

theorem isBlankText_nil : isBlankText [] := nofun

theorem isBlankText_concat {a : List Byte} {b : Byte} (ha : isBlankText a)
    (hb : b = 0x20 ∨ b = 0x09) : isBlankText (a ++ [b]) :=
  List.forall_mem_append.mpr ⟨ha, List.forall_mem_singleton.mpr hb⟩

theorem Pending.blank {q : List Byte} {w : Int} {b : Byte} (hq : Pending x q w)
    (hb : b = 0x20 ∨ b = 0x09) : Pending x (q ++ [b]) w := by
  cases hq with
  | start ha => exact .start (isBlankText_concat ha hb)
  | plus he ha =>
    rw [List.append_assoc]
    exact .plus he (isBlankText_concat ha hb)

theorem Pending.term {q t : List Byte} {w u : Int} (hq : Pending x q w) (ht : TermText x t u) :
    ExprText x (q ++ t) (w + u) := by
  cases hq with
  | start ha => simpa using ExprText.first ha ht isBlankText_nil
  | plus he ha => simpa using ExprText.more he ha ht isBlankText_nil

theorem ExprText.blank {e : List Byte} {v : Int} {b : Byte} (he : ExprText x e v)
    (hb : b = 0x20 ∨ b = 0x09) : ExprText x (e ++ [b]) v := by
  cases he with
  | first ha ht hb' =>
    rw [List.append_assoc]
    exact .first ha ht (isBlankText_concat hb' hb)
  | more he ha ht hb' =>
    rw [List.append_assoc]
    exact .more he ha ht (isBlankText_concat hb' hb)

variable {ended : Bool} {n : Nat} {acc u : Int} {p t : List Byte} {ts : List Token}

theorem Scanned.blank {b : Byte} (h : Scanned x ended n acc p) (hb : b = 0x20 ∨ b = 0x09) :
    Scanned x ended n acc (p ++ [b]) := by
  cases h with
  | termDue hp hq =>
    rw [List.append_assoc]
    exact .termDue hp (hq.blank hb)
  | termEnded hp he =>
    rw [List.append_assoc]
    exact .termEnded hp (he.blank hb)

theorem Scanned.term (h : Scanned x false n acc p) (ht : TermText x t u) :
    Scanned x true n (acc + u) (p ++ t) := by
  cases h with
  | termDue hp hq =>
    rw [List.append_assoc, Int.add_assoc]
    exact .termEnded hp (hq.term ht)

theorem Scanned.plus (h : Scanned x true n acc p) : Scanned x false n acc (p ++ [0x2B]) := by
  cases h with
  | termEnded hp he =>
    rw [List.append_assoc]
    exact .termDue hp (by simpa using Pending.plus he isBlankText_nil)

theorem Scanned.lpar (h : Scanned x false n acc p) : Scanned x false (n + 1) acc (p ++ [0x28]) := by
  cases h with
  | termDue hp hq => simpa using Scanned.termDue (.paren hp hq) (.start isBlankText_nil)

theorem Scanned.rpar (h : Scanned x true (n + 1) acc p) : Scanned x true n acc (p ++ [0x29]) := by
  cases h with
  | termEnded hp he =>
    cases hp with
    | paren hp hq => simpa [Int.add_assoc] using Scanned.termEnded hp (hq.term (.paren he))

theorem Scanned.exprText (h : Scanned x true 0 acc p) : ExprText x p acc := by
  cases h with
  | termEnded hp he =>
    cases hp
    simpa using he

/-- The word read so far, if there is one, is a term the evaluator was due. -/
theorem Scanned.flush (hs : Scanned x ended n acc p)
    (h : evalTokens (termValue x) ended n acc (flushWord (t.map BitVec.toNat) ts) = some u) :
    ∃ ended' acc', Scanned x ended' n acc' (p ++ t) ∧
      evalTokens (termValue x) ended' n acc' ts = some u := by
  cases t with
  | nil => exact ⟨ended, acc, by simpa using hs, h⟩
  | cons b t =>
    obtain ⟨rfl, v, hv, h⟩ := evalTokens_word h
    exact ⟨true, acc + v, hs.term (termText_of_termValue hv), h⟩

/-- By induction on the text not yet read; `t` is the word read so far. -/
theorem Scanned.exprText_of_eval {bs : List Byte} (hs : Scanned x ended n acc p)
    (h : evalTokens (termValue x) ended n acc (tokensFrom (t.map BitVec.toNat) bs) = some u) :
    ExprText x (p ++ t ++ bs) u := by
  induction bs generalizing ended n acc p t with
  | nil =>
    obtain ⟨ended', acc', hs, h⟩ := hs.flush h
    obtain ⟨rfl, rfl, rfl⟩ := evalTokens_nil h
    simpa using hs.exprText
  | cons b bs ih =>
    have hnext : ∀ {ended n acc}, Scanned x ended n acc (p ++ t ++ [b]) →
        evalTokens (termValue x) ended n acc (tokens bs) = some u →
        ExprText x (p ++ t ++ b :: bs) u := fun hs h => by simpa using ih (t := []) hs h
    have hbyte : ∀ {k : Byte}, b.toNat = k.toNat → b = k := BitVec.eq_of_toNat_eq
    rw [tokensFrom] at h
    split_ifs at h with hblank hplus hopen hclose
    · obtain ⟨ended', acc', hs, h⟩ := hs.flush h
      exact hnext (hs.blank (hblank.imp hbyte hbyte)) h
    · obtain ⟨ended', acc', hs, h⟩ := hs.flush h
      obtain ⟨rfl, hrest⟩ := evalTokens_plus h
      exact hnext (hbyte (k := 0x2B) hplus ▸ hs.plus) hrest
    · obtain ⟨ended', acc', hs, h⟩ := hs.flush h
      obtain ⟨rfl, hrest⟩ := evalTokens_lpar h
      exact hnext (hbyte (k := 0x28) hopen ▸ hs.lpar) hrest
    · obtain ⟨ended', acc', hs, h⟩ := hs.flush h
      obtain ⟨rfl, m, rfl, hrest⟩ := evalTokens_rpar h
      exact hnext (hbyte (k := 0x29) hclose ▸ hs.rpar) hrest
    · simpa using ih (t := t ++ [b]) hs (by simpa using h)

end Grammar

/-- Settles O19: the grammar's texts add their values, and what the evaluator has read is always the
beginning of an expression. -/
theorem evaluatorFollowsTheGrammar : Obligations.EvaluatorFollowsTheGrammar := by
  unfold Obligations.EvaluatorFollowsTheGrammar
  intro x e v
  constructor
  · intro h
    have hstart : Scanned x false 0 0 [] := .termDue .none (.start isBlankText_nil)
    exact hstart.exprText_of_eval (t := []) h
  · intro h
    have hadds := h.adds 0 0 [] endsWord_nil
    rw [List.append_nil, Int.zero_add] at hadds
    exact hadds

end Sys2Proof.Machine
end

section
/-! PROOFS. The ends of an instruction whose statements make one change or none, checked reads and
writes of a word by their access fault, and the statements of 41_data_movement.md. -/

namespace Sys2Proof.Machine

/-! ### How an instruction is written -/

/-- The bytes of an instruction begin with its opcode (30_encoding.md R100, R111). -/
theorem written_of_opcode {i : Instr} {m : Mnemonic} {operands : List AsmOperand} {opcode : Word}
    {f : Format} (ha : assemble m operands = some i) (hf : i.op.format = f)
    (ho : Config.reference.opcode i.op = opcode) : Written i m operands opcode f :=
  ⟨ha, hf, by rw [encode, encodeWith, ho]⟩

/-! ### What the statements read -/

/-- The statements read IP as the address after the instruction (00_scope.md R11). -/
theorem advance_reg_eq_operandOf (s : State) (i : Instr) (r : Reg) :
    (s.advance i).reg r = operandOf i s r := State.advance_reg s i r

theorem advance_regs_eq_operandOf (s : State) (i : Instr) :
    (s.advance i).reg = operandOf i s := funext (advance_reg_eq_operandOf s i)

theorem advance_reg_of_ne (s : State) (i : Instr) {r : Reg} (h : r ≠ .ip) :
    (s.advance i).reg r = s.reg r := State.reg_setReg_of_ne s _ h

@[simp] theorem accessFault_advance (s : State) (i : Instr) (access : Access) (ctx : Context)
    (a : Int) (n : Nat) : accessFault (s.advance i) access ctx a n = accessFault s access ctx a n :=
  rfl

@[simp] theorem wordAt_advance (s : State) (i : Instr) (a : Nat) :
    wordAt (s.advance i) a = wordAt s a := rfl

/-! ### Checked reads and writes of a word by their access fault (20_memory.md R66, R67) -/

theorem memRead_of_accessFault {s : State} {a : Int} {n : Nat} {ctx : Context} {f : Fault}
    (hn : n ≠ 0) (h : accessFault s .read ctx a n = some f) :
    s.memRead a n ctx false = .error f := by
  rw [accessFault] at h
  rw [State.memRead, if_neg hn]
  cases hr : s.resolve a with
  | none =>
    rw [hr] at h
    exact congrArg Except.error (Option.some.inj h)
  | some r =>
    rw [hr] at h
    obtain ⟨hbad, hf⟩ := Option.ite_none_right_eq_some.mp h
    obtain rfl := Option.some.inj hf
    obtain hstop | hperm := hbad
    · simp [hstop]
    · simp [hperm]

theorem loadInt_of_accessFault {s : State} {a : Int} {ctx : Context} {f : Fault}
    (h : accessFault s .read ctx a 4 = some f) : loadInt a ctx s = .error f s := by
  rw [loadInt_apply, memRead_of_accessFault (by decide) h]

theorem loadInt_of_no_accessFault {s : State} {a : Int} {ctx : Context}
    (h : accessFault s .read ctx a 4 = none) :
    loadInt a ctx s = .ok (wordAt s a.toNat) s := by
  obtain ⟨r, hr, hstop, hp⟩ := accessFault_eq_none.mp h
  rw [loadInt_apply, State.memRead_of_ok (fetch := false) hr hstop hp nofun]
  rfl

theorem writeFault_eq_accessFault (s : State) (a : Int) (n : Nat) (ctx : Context) :
    s.writeFault a n ctx = accessFault s .write ctx a n := by
  rw [State.writeFault, accessFault]
  cases s.resolve a with
  | none => rfl
  | some r =>
    by_cases hstop : (r.stop : Int) < a + n
    · simp [hstop]
    · cases hp : permitted .write ctx r.flags <;> simp [hstop, hp]

/-! ### The ends of an instruction -/

section Ends

variable {i : Instr} {s : State}

/-- An instruction that raises before it has changed anything only takes the fault. -/
theorem onlyFaults_of_error {f : Fault}
    (h : statements i (s.advance i) = .error f (s.advance i)) : OnlyFaults i s f :=
  ⟨_, (exec_eq_cycle i s).trans (cycle_of_error h), faultTaken_of_error h,
    State.reg_setReg_self s .ip _,
    fun _ hr => advance_reg_of_ne s i (List.ne_of_not_mem_cons hr), fun _ => rfl,
    ⟨rfl, rfl, rfl, rfl⟩, rfl⟩

/-- An instruction whose only change is a register that User may write completes into it. -/
theorem completesInto_of_ok {rd : Reg} {v : Word} (hrd : isPrivileged rd = false)
    (h : statements i (s.advance i) = .ok false ((s.advance i).setReg rd v)) :
    CompletesInto i s rd v := by
  have hip : rd ≠ .ip := by rintro rfl; cases hrd
  have hpc : rd ≠ .pc := by rintro rfl; cases hrd
  refine ⟨_, (exec_eq_cycle i s).trans (cycle_of_ok h), completed_of_ok h, ?next, ?dest,
    fun r hr => ?regs, fun _ => rfl, ⟨rfl, rfl, rfl, rfl⟩, rfl⟩
  case next =>
    rw [State.retire_reg, if_neg (by decide), State.reg_setReg_of_ne _ _ hip.symm]
    exact State.reg_setReg_self s .ip _
  case dest => rw [State.retire_reg, if_neg hpc, State.reg_setReg_self]
  case regs =>
    simp only [List.mem_cons, List.not_mem_nil, or_false, not_or] at hr
    obtain ⟨hrd, hrip, hrpc⟩ := hr
    rw [State.retire_reg, if_neg hrpc, State.reg_setReg_of_ne _ _ hrd, advance_reg_of_ne s i hrip]

/-- An instruction whose only change is a stored word completes as that store. -/
theorem completesStoring_of_ok {a : Int} {v : Word} (hwf : s.mem.wf)
    (h : statements i (s.advance i) =
      .ok false ((s.advance i).storeBytes a.toNat (bytesLe32 v))) :
    CompletesStoring i s a v := by
  refine ⟨_, (exec_eq_cycle i s).trans (cycle_of_ok h), completed_of_ok h, ?next,
    holdsWord_storeBytes (s := s.advance i) hwf _ v,
    fun _ hb => Memory.read_writeBytes_outside hwf _ _ hb, fun r hr => ?regs,
    ⟨rfl, rfl, rfl, rfl⟩, rfl⟩
  case next =>
    rw [State.retire_reg, if_neg (by decide), State.storeBytes_reg]
    exact State.reg_setReg_self s .ip _
  case regs =>
    simp only [List.mem_cons, List.not_mem_nil, or_false, not_or] at hr
    obtain ⟨hrip, hrpc⟩ := hr
    rw [State.retire_reg, if_neg hrpc, State.storeBytes_reg, advance_reg_of_ne s i hrip]

/-! ### Instructions that write a register, store a word or load one -/

theorem onlyFaults_of_privileged {rd : Reg} {v : Word} (hrd : isPrivileged rd = true)
    (h : statements i (s.advance i) = thenGoOn (writeDestination rd v) (s.advance i)) :
    OnlyFaults i s (.invalidRegister rd) :=
  onlyFaults_of_error (by rw [h, thenGoOn_apply, writeDestination_apply, if_pos hrd])

theorem completesInto_of_write {rd : Reg} {v : Word} (hrd : isPrivileged rd = false)
    (h : statements i (s.advance i) = thenGoOn (writeDestination rd v) (s.advance i)) :
    CompletesInto i s rd v :=
  completesInto_of_ok hrd (by rw [h, thenGoOn_apply, writeDestination_apply, hrd]; rfl)

theorem storesTo_of_store {a : Int} {v : Word} (hwf : s.mem.wf)
    (h : statements i (s.advance i) = thenGoOn (storeInt a v .user) (s.advance i)) :
    StoresTo i s a v := by
  rw [thenGoOn_apply, storeInt_apply, writeFault_eq_accessFault, accessFault_advance] at h
  rw [StoresTo]
  cases hf : accessFault s .write .user a 4 with
  | some f => exact onlyFaults_of_error (by rw [h, hf])
  | none => exact completesStoring_of_ok hwf (by rw [h, hf])

/-- A load into a destination faults by its access first, then by its destination
(60_exceptions.md R275). -/
theorem loadsFrom_of_load {source : Act Word} {rd : Reg} {a : Int}
    (h : statements i = thenGoOn (loadInto source rd))
    (hsource : source (s.advance i) = loadInt a .user (s.advance i)) : LoadsFrom i s rd a := by
  rw [LoadsFrom]
  cases hf : accessFault s .read .user a 4 with
  | some f =>
    have hload := hsource.trans (loadInt_of_accessFault (s := s.advance i) hf)
    exact onlyFaults_of_error (by simp only [h, loadInto, thenGoOn_apply, Act.bind_apply, hload])
  | none =>
    have hload := hsource.trans (loadInt_of_no_accessFault (s := s.advance i) hf)
    have hwrite : statements i (s.advance i) =
        thenGoOn (writeDestination rd (wordAt s a.toNat)) (s.advance i) := by
      simp only [h, loadInto, thenGoOn_apply, Act.bind_apply, hload, wordAt_advance]
    cases hrd : isPrivileged rd with
    | true => exact onlyFaults_of_privileged hrd hwrite
    | false => exact completesInto_of_write hrd hwrite

end Ends

/-! ### The address of an expression (41_data_movement.md R169, R170) -/

theorem loadExpression_of_value {s : State} {e : List Byte} {a : Int}
    (h : evalExpression s.reg e = some a) : loadExpression e s = loadInt a .user s := by
  rw [loadExpression, Act.bind_apply, expressionAddress_apply, h]

theorem loadExpression_of_no_value {s : State} {e : List Byte}
    (h : evalExpression s.reg e = none) :
    loadExpression e s = .error (.invalidExpression e) s := by
  rw [loadExpression, Act.bind_apply, expressionAddress_apply, h]

/-! ### The statements of 41_data_movement.md -/

/-- Settles O15: each form is one write of its destination. -/
theorem movWritesItsDestinationRegister : Obligations.MovWritesItsDestinationRegister := by
  unfold Obligations.MovWritesItsDestinationRegister
  intro lit rs rd s
  have hlit : statements (.movLitReg lit rd) (s.advance (.movLitReg lit rd)) =
      thenGoOn (writeDestination rd lit) (s.advance (.movLitReg lit rd)) := rfl
  have hreg : statements (.movRegReg rs rd) (s.advance (.movRegReg rs rd)) =
      thenGoOn (writeDestination rd (operandOf (.movRegReg rs rd) s rs))
        (s.advance (.movRegReg rs rd)) := by
    rw [← advance_reg_eq_operandOf]
    rfl
  exact ⟨written_of_opcode rfl rfl rfl, written_of_opcode rfl rfl rfl,
    fun hrd => ⟨completesInto_of_write hrd hlit, completesInto_of_write hrd hreg⟩,
    fun hrd => ⟨onlyFaults_of_privileged hrd hlit, onlyFaults_of_privileged hrd hreg⟩⟩

/-- Settles O16: each form is one store under User. -/
theorem movStoresAWordAtItsAddress : Obligations.MovStoresAWordAtItsAddress := by
  unfold Obligations.MovStoresAWordAtItsAddress
  intro lit a rs s hwf
  refine ⟨written_of_opcode rfl rfl rfl, written_of_opcode rfl rfl rfl,
    storesTo_of_store hwf rfl, storesTo_of_store hwf ?_⟩
  rw [← advance_reg_eq_operandOf]
  rfl

/-- Settles O17: each form is one load into its destination. -/
theorem movLoadsTheWordAtItsAddress : Obligations.MovLoadsTheWordAtItsAddress := by
  unfold Obligations.MovLoadsTheWordAtItsAddress
  intro a rp rd s
  refine ⟨written_of_opcode rfl rfl rfl, written_of_opcode rfl rfl rfl,
    loadsFrom_of_load rfl rfl, loadsFrom_of_load rfl ?_⟩
  rw [← advance_reg_eq_operandOf]
  rfl

/-- Settles O18: the evaluator answers exactly where the grammar has a value. -/
theorem movLoadsAtItsExpression : Obligations.MovLoadsAtItsExpression := by
  unfold Obligations.MovLoadsAtItsExpression
  intro e rd s
  rw [← advance_regs_eq_operandOf]
  refine ⟨written_of_opcode rfl rfl rfl, fun a ha => ?_, fun hnone => ?_⟩
  · have heval := (evaluatorFollowsTheGrammar _ _ _).mpr ha
    exact loadsFrom_of_load rfl (loadExpression_of_value heval)
  · have heval := Option.eq_none_iff_forall_ne_some.mpr fun a ha =>
      hnone ⟨a, (evaluatorFollowsTheGrammar _ _ _).mp ha⟩
    refine onlyFaults_of_error ?_
    rw [statements, thenGoOn_apply, loadInto, Act.bind_apply, loadExpression_of_no_value heval]

end Sys2Proof.Machine
end

section
/-! PROOFS. The flag laws bit by bit, quotient and remainder, the ends of an arithmetic instruction, and
the statements of 42_arithmetic.md. -/

namespace Sys2Proof.Machine

/-! ### The bits of FL (10_state.md R30, R31) -/

theorem getLsbD_setBit (v : Word) (k : Fin 32) (b : Bool) (j : Fin 32) :
    (setBit v k b).getLsbD j = if j = k then b else v.getLsbD j := by
  have hmask : (1#32 <<< k.val).getLsbD j = decide (j = k) := by
    rw [← BitVec.twoPow_eq, BitVec.getLsbD_twoPow, decide_eq_true k.isLt, Bool.true_and]
    exact decide_eq_decide.mpr (Fin.val_inj.trans eq_comm)
  cases b with
  | true =>
    rw [setBit, if_pos rfl, BitVec.getLsbD_or, hmask]
    split <;> simp [*]
  | false =>
    rw [setBit, if_neg Bool.false_ne_true, BitVec.getLsbD_and, BitVec.getLsbD_not, hmask]
    split <;> simp [*]

theorem getLsbD_packFlags (l : FlLayout) (fl : Word) (f : ArithFlags) (j : Fin 32) :
    (packFlags l fl f).getLsbD j =
      if j = l.o then f.o else if j = l.z then f.z else if j = l.s then f.s else fl.getLsbD j := by
  rw [packFlags, getLsbD_setBit, getLsbD_setBit, getLsbD_setBit]

theorem arithFlags_s (w : Int) : (arithFlags w).s = decide ((wrap32 w).toInt < 0) := rfl

theorem arithFlags_z (w : Int) : (arithFlags w).z = decide ((wrap32 w).toInt = 0) :=
  decide_eq_decide.mpr (BitVec.toInt_inj (y := 0#32)).symm

theorem arithFlags_o (w : Int) :
    (arithFlags w).o = decide (w < -2147483648 ∨ w > 2147483647) :=
  (Bool.decide_or _ _).symm

/-! ### Quotient and remainder (42_arithmetic.md R188) -/

/-- A nonzero remainder has the sign of the dividend. -/
theorem remainder_neg_iff {n d : Int} (h : remainder n d ≠ 0) : remainder n d < 0 ↔ n < 0 := by
  rw [remainder] at h ⊢
  by_cases hn : n < 0
  · have hneg := Int.tmod_nonneg (a := -n) d (by omega)
    rw [Int.neg_tmod] at hneg
    omega
  · have hpos := Int.tmod_nonneg (a := n) d (by omega)
    omega

theorem divides_quotient_remainder (n : Int) {d : Int} (hd : d ≠ 0) :
    Divides n d (quotient n d) (remainder n d) := by
  have hlt : (remainder n d).natAbs < d.natAbs := by
    rw [remainder, Int.natAbs_tmod]
    exact Nat.mod_lt _ (Int.natAbs_pos.mpr hd)
  exact ⟨(Int.mul_tdiv_add_tmod n d).symm, hlt, remainder_neg_iff⟩

theorem toInt_ne_zero_of_ne {d : Word} (hd : d ≠ 0) : d.toInt ≠ 0 :=
  BitVec.toInt_ne.mpr hd

/-- A remainder is smaller than its divisor, so it never overflows. -/
theorem Divides.remainder_inRange {n q r : Int} {d : Word} (h : Divides n d.toInt q r) :
    ¬ (r < -2147483648 ∨ r > 2147483647) := by
  obtain ⟨-, hlt, -⟩ := h
  have hlo := d.le_toInt
  have hhi := d.toInt_lt
  omega

/-! ### The ends of an arithmetic instruction (42_arithmetic.md R181) -/

/-- The state after `SetArith(w)`; `setArith_apply` ties it to the action. -/
def State.withResult (s : State) (w : Int) : State :=
  (s.setReg .ac (wrap32 w)).setReg .fl (packFlags s.cfg.flLayout (s.reg .fl) (arithFlags w))

theorem setArith_eq_withResult (w : Int) (s : State) : setArith w s = .ok () (s.withResult w) :=
  setArith_apply w s

theorem State.withResult_fl (s : State) (w : Int) :
    (s.withResult w).reg .fl = packFlags s.cfg.flLayout (s.reg .fl) (arithFlags w) :=
  State.reg_setReg_self _ _ _

theorem State.withResult_ac (s : State) (w : Int) : (s.withResult w).reg .ac = wrap32 w := by
  rw [State.withResult, State.reg_setReg_of_ne _ _ (by decide), State.reg_setReg_self]

theorem kept_withResult {p : Part} (hac : p ≠ .reg .ac) (hfl : p ≠ .reg .fl) (s : State) (w : Int) :
    p.Kept s (s.withResult w) :=
  (kept_setReg hac s _).trans (kept_setReg hfl _ _)

/-- The state at the end of a cycle whose statements are `SetArith(w)`; `completesArith_of_ok` ties it
to `exec`. -/
def State.arithEnd (s : State) (i : Instr) (w : Int) : State :=
  ((s.advance i).withResult w).retire (opcodeAddress s) false

theorem State.arithEnd_reg (s : State) (i : Instr) (w : Int) {r : Reg} (h : r ≠ .pc) :
    (s.arithEnd i w).reg r = ((s.advance i).withResult w).reg r :=
  (State.retire_reg ..).trans (if_neg h)

theorem State.arithEnd_ac (s : State) (i : Instr) (w : Int) :
    (s.arithEnd i w).reg .ac = wrap32 w := by
  rw [State.arithEnd_reg s i w (by decide), State.withResult_ac]

theorem State.arithEnd_fl (s : State) (i : Instr) (w : Int) :
    (s.arithEnd i w).reg .fl = packFlags s.cfg.flLayout (s.reg .fl) (arithFlags w) := by
  rw [State.arithEnd_reg s i w (by decide), State.withResult_fl, State.advance_cfg,
    advance_reg_of_ne s i (by decide)]

theorem State.arithEnd_ip (s : State) (i : Instr) (w : Int) :
    (s.arithEnd i w).reg .ip = nextAddress i s := by
  have hkept : ((s.advance i).withResult w).reg .ip = (s.advance i).reg .ip :=
    kept_withResult (p := .reg .ip) (by decide) (by decide) _ w
  rw [State.arithEnd_reg s i w (by decide), hkept]
  exact State.reg_setReg_self s .ip _

/-- Beside the result, the cycle writes only its own parts. -/
theorem kept_arithEnd {p : Part} (hac : p ≠ .reg .ac) (hfl : p ≠ .reg .fl) (hc : p ∉ cycleParts)
    (s : State) (i : Instr) (w : Int) : p.Kept s (s.arithEnd i w) := by
  simp only [cycleParts, List.mem_cons, List.not_mem_nil, or_false, not_or] at hc
  obtain ⟨hip, hpc, hrun⟩ := hc
  exact ((kept_advance hip s i).trans (kept_withResult hac hfl _ w)).trans
    (kept_retire hpc hrun _ _ _)

theorem memoryKept_arithEnd (s : State) (i : Instr) (w : Int) : memoryKept s (s.arithEnd i w) := by
  have hmem : (s.arithEnd i w).mem = s.mem :=
    kept_arithEnd (p := .mem) (by decide) (by decide) (by decide) s i w
  exact fun b => by rw [hmem]

theorem stackKept_arithEnd (s : State) (i : Instr) (w : Int) : stackKept s (s.arithEnd i w) := by
  obtain ⟨hmsp, htypes, hfsz⟩ :=
    kept_arithEnd (p := .stack) (by decide) (by decide) (by decide) s i w
  exact ⟨hmsp, htypes, hfsz,
    kept_arithEnd (p := .depth) (by decide) (by decide) (by decide) s i w⟩

theorem regsKept_arithEnd (s : State) (i : Instr) (w : Int) :
    regsKept s (s.arithEnd i w) [.ac, .fl, .ip, .pc] := by
  intro r hr
  simp only [List.mem_cons, List.not_mem_nil, or_false, not_or] at hr
  obtain ⟨hac, hfl, hip, hpc⟩ := hr
  exact kept_arithEnd (p := .reg r) (by simpa) (by simpa) (by simp [cycleParts, hip, hpc]) s i w

section Ends

variable {i : Instr} {s : State} {f : Int → Int → Int} {x y : Word}

/-- An instruction whose only change is an arithmetic result completes with it. -/
theorem completesArith_of_ok {w : Int} (hs : flagsApart s)
    (h : statements i (s.advance i) = .ok false ((s.advance i).withResult w)) :
    CompletesArith i s w := by
  obtain ⟨hsz, hso, hzo⟩ := hs
  refine ⟨s.arithEnd i w, (exec_eq_cycle i s).trans (cycle_of_ok h), completed_of_ok h,
    s.arithEnd_ip i w, s.arithEnd_ac i w, ?signBit, ?zeroBit, ?overflowBit,
    fun j hjs hjz hjo => ?otherBits, regsKept_arithEnd s i w, memoryKept_arithEnd s i w,
    stackKept_arithEnd s i w,
    kept_arithEnd (p := .trace) (by decide) (by decide) (by decide) s i w⟩
  case signBit =>
    rw [State.arithEnd_fl, getLsbD_packFlags, if_neg hso, if_neg hsz, if_pos rfl, arithFlags_s]
  case zeroBit => rw [State.arithEnd_fl, getLsbD_packFlags, if_neg hzo, if_pos rfl, arithFlags_z]
  case overflowBit => rw [State.arithEnd_fl, getLsbD_packFlags, if_pos rfl, arithFlags_o]
  case otherBits =>
    rw [State.arithEnd_fl, getLsbD_packFlags, if_neg hjo, if_neg hjz, if_neg hjs]

theorem completesArith_of_arithmetic (hs : flagsApart s)
    (h : statements i (s.advance i) = thenGoOn (arithmetic f x y) (s.advance i)) :
    CompletesArith i s (f x.toInt y.toInt) :=
  completesArith_of_ok hs (by rw [h, thenGoOn_apply, arithmetic, setArith_eq_withResult])

theorem onlyFaults_of_division (hy : y = 0)
    (h : statements i (s.advance i) = thenGoOn (division f x y) (s.advance i)) :
    OnlyFaults i s .divideByZero :=
  onlyFaults_of_error (by rw [h, thenGoOn_apply, division_apply, if_pos hy])

theorem completesArith_of_division (hs : flagsApart s) (hy : y ≠ 0)
    (h : statements i (s.advance i) = thenGoOn (division f x y) (s.advance i)) :
    CompletesArith i s (f x.toInt y.toInt) :=
  completesArith_of_ok hs (by rw [h, thenGoOn_apply, division_apply, if_neg hy]; rfl)

/-! ### The operands of the four forms (00_scope.md R11; 42_arithmetic.md R182-R192) -/

theorem arithLitReg_advance (lit : Word) (rs : Reg) :
    thenGoOn (arithLitReg f lit rs) (s.advance i) =
      thenGoOn (arithmetic f (operandOf i s rs) lit) (s.advance i) := by
  simp only [arithLitReg, thenGoOn_apply, Act.bind_apply, getReg_apply, advance_reg_eq_operandOf]

theorem arithRegReg_advance (ra rb : Reg) :
    thenGoOn (arithRegReg f ra rb) (s.advance i) =
      thenGoOn (arithmetic f (operandOf i s rb) (operandOf i s ra)) (s.advance i) := by
  simp only [arithRegReg, thenGoOn_apply, Act.bind_apply, getReg_apply, advance_reg_eq_operandOf]

theorem divLitRegBody_advance (lit : Word) (rs : Reg) :
    thenGoOn (divLitRegBody f lit rs) (s.advance i) =
      thenGoOn (division f (operandOf i s rs) lit) (s.advance i) := by
  simp only [divLitRegBody, thenGoOn_apply, Act.bind_apply, getReg_apply, advance_reg_eq_operandOf]

theorem divRegRegBody_advance (ra rb : Reg) :
    thenGoOn (divRegRegBody f ra rb) (s.advance i) =
      thenGoOn (division f (operandOf i s rb) (operandOf i s ra)) (s.advance i) := by
  simp only [divRegRegBody, thenGoOn_apply, Act.bind_apply, getReg_apply, advance_reg_eq_operandOf]

end Ends

/-! ### The statements of 42_arithmetic.md -/

/-- Settles O21: each form is one `SetArith`, with the register on the left. -/
theorem literalArithmeticWritesAcAndFlags : Obligations.LiteralArithmeticWritesAcAndFlags := by
  unfold Obligations.LiteralArithmeticWritesAcAndFlags
  intro lit rs s hs
  exact ⟨written_of_opcode rfl rfl rfl, written_of_opcode rfl rfl rfl,
    written_of_opcode rfl rfl rfl,
    completesArith_of_arithmetic hs (arithLitReg_advance lit rs),
    completesArith_of_arithmetic hs (arithLitReg_advance lit rs),
    completesArith_of_arithmetic hs (arithLitReg_advance lit rs)⟩

/-- Settles O22: each form is one `SetArith`, with the second register on the left. -/
theorem registerArithmeticWritesAcAndFlags : Obligations.RegisterArithmeticWritesAcAndFlags := by
  unfold Obligations.RegisterArithmeticWritesAcAndFlags
  intro ra rb s hs
  exact ⟨written_of_opcode rfl rfl rfl, written_of_opcode rfl rfl rfl,
    written_of_opcode rfl rfl rfl,
    completesArith_of_arithmetic hs (arithRegReg_advance ra rb),
    completesArith_of_arithmetic hs (arithRegReg_advance ra rb),
    completesArith_of_arithmetic hs (arithRegReg_advance ra rb)⟩

/-- Settles O23: both forms are one division, by the literal or by the first register. -/
theorem divisionTruncatesTowardZero : Obligations.DivisionTruncatesTowardZero := by
  unfold Obligations.DivisionTruncatesTowardZero
  intro lit ra rs s hs
  exact ⟨written_of_opcode rfl rfl rfl, written_of_opcode rfl rfl rfl,
    fun hd => onlyFaults_of_division hd (divLitRegBody_advance lit rs),
    fun hd => onlyFaults_of_division hd (divRegRegBody_advance ra rs),
    fun hd => ⟨_, _, divides_quotient_remainder _ (toInt_ne_zero_of_ne hd),
      completesArith_of_division hs hd (divLitRegBody_advance lit rs)⟩,
    fun hd => ⟨_, _, divides_quotient_remainder _ (toInt_ne_zero_of_ne hd),
      completesArith_of_division hs hd (divRegRegBody_advance ra rs)⟩⟩

/-- Settles O24: as for the quotient, and a remainder is in range. -/
theorem remainderHasTheDividendsSign : Obligations.RemainderHasTheDividendsSign := by
  unfold Obligations.RemainderHasTheDividendsSign
  intro lit ra rs s hs
  refine ⟨written_of_opcode rfl rfl rfl, written_of_opcode rfl rfl rfl,
    fun hd => onlyFaults_of_division hd (divLitRegBody_advance lit rs),
    fun hd => onlyFaults_of_division hd (divRegRegBody_advance ra rs), fun hd => ?byLiteral,
    fun hd => ?byRegister⟩
  case byLiteral =>
    have hdiv := divides_quotient_remainder (operandOf (.modLitReg lit rs) s rs).toInt
      (toInt_ne_zero_of_ne hd)
    exact ⟨_, _, hdiv, hdiv.remainder_inRange,
      completesArith_of_division hs hd (divLitRegBody_advance lit rs)⟩
  case byRegister =>
    have hdiv := divides_quotient_remainder (operandOf (.modRegReg ra rs) s rs).toInt
      (toInt_ne_zero_of_ne hd)
    exact ⟨_, _, hdiv, hdiv.remainder_inRange,
      completesArith_of_division hs hd (divRegRegBody_advance ra rs)⟩

/-! ### FL along a step -/

/-- A division completes with its result, or its divisor is 0. -/
theorem division_ends {i : Instr} {s : State} {f : Int → Int → Int} {x y : Word}
    (hs : flagsApart s) (h : statements i (s.advance i) = thenGoOn (division f x y) (s.advance i))
    (hw : y ≠ 0 → ArithResult i s (f x.toInt y.toInt)) :
    (∃ w, ArithResult i s w ∧ CompletesArith i s w) ∨ OnlyFaults i s .divideByZero := by
  by_cases hy : y = 0
  · exact .inr (onlyFaults_of_division hy h)
  · exact .inl ⟨_, hw hy, completesArith_of_division hs hy h⟩

/-- An arithmetic instruction completes with the exact result of its own rule, or only divides by
zero. -/
theorem arithmetic_ends {i : Instr} {s : State} (hs : flagsApart s) (hop : i.op ∈ arithmeticOps) :
    (∃ w, ArithResult i s w ∧ CompletesArith i s w) ∨ OnlyFaults i s .divideByZero := by
  cases i
  case addLitReg lit rs | subLitReg lit rs | mulLitReg lit rs =>
    exact .inl ⟨_, rfl, completesArith_of_arithmetic hs (arithLitReg_advance lit rs)⟩
  case addRegReg ra rb | subRegReg ra rb | mulRegReg ra rb =>
    exact .inl ⟨_, rfl, completesArith_of_arithmetic hs (arithRegReg_advance ra rb)⟩
  case divLitReg lit rs | modLitReg lit rs =>
    exact division_ends hs (divLitRegBody_advance lit rs) fun hd =>
      ⟨_, divides_quotient_remainder _ (toInt_ne_zero_of_ne hd)⟩
  case divRegReg ra rb | modRegReg ra rb =>
    exact division_ends hs (divRegRegBody_advance ra rb) fun hd =>
      ⟨_, divides_quotient_remainder _ (toInt_ne_zero_of_ne hd)⟩
  all_goals simp [arithmeticOps] at hop

/-- A step that changes FL runs the instruction it decodes: no halt and no fault of the fetch writes
FL. -/
theorem exec_of_fl_changed {s t : State} (h : step s = .next t) (hfl : t.reg .fl ≠ s.reg .fl) :
    ∃ d, s.decodedInstr = some d ∧ exec d.instr s = .next t := by
  cases stepEnd_of_step h with
  | halted => exact absurd rfl hfl
  | hostHalt => exact absurd rfl hfl
  | opcodeFault => exact absurd rfl hfl
  | argumentFault => exact absurd (kept_pastOpcode (p := .reg .fl) (by decide) s) hfl
  | completed hh hr ho hi _ =>
    exact ⟨_, decodedInstr_of_fetched hh hr ho hi, (step_of_fetched hh hr ho hi).symm.trans h⟩
  | faulted hh hr ho hi _ =>
    exact ⟨_, decodedInstr_of_fetched hh hr ho hi, (step_of_fetched hh hr ho hi).symm.trans h⟩

/-- Settles O44: of the instructions only the arithmetic ones write FL, and they write it only where
they complete. -/
theorem flagsFollowTheLastResult : Obligations.FlagsFollowTheLastResult := by
  unfold Obligations.FlagsFollowTheLastResult
  intro s t hs h hfl
  obtain ⟨d, hd, hexec⟩ := exec_of_fl_changed h hfl
  have hop : d.instr.op ∈ arithmeticOps := by
    by_contra hop
    exact hfl (exec_kept (p := .reg .fl) hexec (by decide) (not_mayChange hop nofun))
  obtain ⟨w, hw, t', ht', -, -, hac, hsign, hzero, hover, hbits, -⟩ | ⟨t', ht', -, -, hregs, -⟩ :=
    arithmetic_ends hs hop
  · obtain rfl := Host.Outcome.next.inj (ht'.symm.trans hexec)
    refine ⟨⟨d, w, hd, hop, hw, hac, hsign, hzero, hover⟩, hbits, ?_⟩
    rw [hsign, hzero, decide_eq_true_eq, decide_eq_true_eq]
    omega
  · obtain rfl := Host.Outcome.next.inj (ht'.symm.trans hexec)
    exact absurd (hregs .fl (by decide)) hfl

end Sys2Proof.Machine
end

section
/-! PROOFS. The relations of the jumps as relations of integers, the ends of a jump, and the statements
of 43_jumps.md. -/

namespace Sys2Proof.Machine

/-! ### The relations (43_jumps.md R201) -/

/-- The relation of two integers that a jump tests, the operand on the left; `relationHolds_iff` ties
it to the model's test. -/
def Relation.Relates : Relation → Int → Int → Prop
  | .ne, v, a => v ≠ a
  | .eq, v, a => v = a
  | .lt, v, a => v < a
  | .gt, v, a => a < v
  | .le, v, a => v ≤ a
  | .ge, v, a => a ≤ v

theorem relationHolds_iff (rel : Relation) (v a : Word) :
    relationHolds rel v a = true ↔ rel.Relates v.toInt a.toInt := by
  cases rel <;> exact decide_eq_true_iff

/-! ### The ends of a jump (43_jumps.md R200) -/

/-- The state after the statements of a jump; `jumpIf_eq_jumped` ties it to the action. -/
def State.jumped (s : State) (rel : Relation) (o : Op) (v target : Word) : State :=
  if relationHolds rel v (s.reg .ac) then
    s.setReg .ip (wrap32 (target.toInt + targetBias s.cfg o))
  else s

theorem jumpIf_eq_jumped (rel : Relation) (o : Op) (v target : Word) (s : State) :
    jumpIf rel o v target s = .ok () (s.jumped rel o v target) :=
  jumpIf_apply rel o v target s

theorem State.jumped_ip_of_relates {s : State} {rel : Relation} {v : Word}
    (h : rel.Relates v.toInt (s.reg .ac).toInt) (o : Op) (target : Word) :
    (s.jumped rel o v target).reg .ip = wrap32 (target.toInt + targetBias s.cfg o) := by
  rw [State.jumped, if_pos ((relationHolds_iff rel v _).mpr h), State.reg_setReg_self]

theorem State.jumped_of_not_relates {s : State} {rel : Relation} {v : Word}
    (h : ¬ rel.Relates v.toInt (s.reg .ac).toInt) (o : Op) (target : Word) :
    s.jumped rel o v target = s :=
  if_neg ((relationHolds_iff rel v _).not.mpr h)

theorem kept_jumped {p : Part} (h : p ≠ .reg .ip) (s : State) (rel : Relation) (o : Op)
    (v target : Word) : p.Kept s (s.jumped rel o v target) := by
  have hkept := changesOnly_jumpIf (P := (· = .reg .ip)) rfl rel o v target s p h
  rwa [Act.final_of_ok (jumpIf_eq_jumped rel o v target s)] at hkept

/-- The state at the end of a jump's cycle; `completesJump_of_jumpIf` ties it to `exec`. -/
def State.jumpEnd (s : State) (i : Instr) (rel : Relation) (v target : Word) : State :=
  ((s.advance i).jumped rel i.op v target).retire (opcodeAddress s) false

theorem State.jumpEnd_ip (s : State) (i : Instr) (rel : Relation) (v target : Word) :
    (s.jumpEnd i rel v target).reg .ip = ((s.advance i).jumped rel i.op v target).reg .ip :=
  (State.retire_reg ..).trans (if_neg (by decide))

/-- A jump's cycle changes only what the cycle itself writes. -/
theorem kept_jumpEnd {p : Part} (hc : p ∉ cycleParts) (s : State) (i : Instr) (rel : Relation)
    (v target : Word) : p.Kept s (s.jumpEnd i rel v target) := by
  simp only [cycleParts, List.mem_cons, List.not_mem_nil, or_false, not_or] at hc
  obtain ⟨hip, hpc, hrun⟩ := hc
  exact ((kept_advance hip s i).trans (kept_jumped hip _ rel i.op v target)).trans
    (kept_retire hpc hrun _ _ _)

section Ends

variable {i : Instr} {s : State} {rel : Relation} {target : Word}

/-- An instruction whose statements are a jump's completes as a jump. -/
theorem completesJump_of_jumpIf {v : Word}
    (h : statements i (s.advance i) = thenGoOn (jumpIf rel i.op v target) (s.advance i)) :
    CompletesJump i s (rel.Relates v.toInt (s.reg .ac).toInt) target := by
  rw [thenGoOn_apply, jumpIf_eq_jumped] at h
  have hac : (s.advance i).reg .ac = s.reg .ac := advance_reg_of_ne s i (by decide)
  have hkept : ∀ p, p ∉ cycleParts → p.Kept s (s.jumpEnd i rel v target) :=
    fun p hc => kept_jumpEnd hc s i rel v target
  obtain ⟨hmsp, htypes, hfsz⟩ := hkept .stack (by decide)
  have hmem : (s.jumpEnd i rel v target).mem = s.mem := hkept .mem (by decide)
  refine ⟨s.jumpEnd i rel v target, (exec_eq_cycle i s).trans (cycle_of_ok h), completed_of_ok h,
    fun htaken => ?taken, fun hnot => ?notTaken, fun r hr => hkept (.reg r) ?regs,
    fun b => by rw [hmem], ⟨hmsp, htypes, hfsz, hkept .depth (by decide)⟩,
    hkept .trace (by decide)⟩
  case taken =>
    rw [← hac] at htaken
    exact (s.jumpEnd_ip ..).trans (State.jumped_ip_of_relates htaken ..)
  case notTaken =>
    rw [← hac] at hnot
    rw [State.jumpEnd_ip, State.jumped_of_not_relates hnot]
    exact State.reg_setReg_self s .ip _
  case regs => simpa [cycleParts] using hr

/-- A jump with a register operand is a jump on what the instruction reads there (00_scope.md R11). -/
theorem completesJump_of_jumpRegBody {rs : Reg}
    (h : statements i = thenGoOn (jumpRegBody rel i.op rs target)) :
    CompletesJump i s (rel.Relates (operandOf i s rs).toInt (s.reg .ac).toInt) target :=
  completesJump_of_jumpIf (by
    simp only [h, jumpRegBody, thenGoOn_apply, Act.bind_apply, getReg_apply,
      advance_reg_eq_operandOf])

end Ends

/-! ### The statements of 43_jumps.md -/

/-- Settles O25: each form is one jump on its literal, with its own relation. -/
theorem literalJumpsCompareWithAc : Obligations.LiteralJumpsCompareWithAc := by
  unfold Obligations.LiteralJumpsCompareWithAc
  intro lit target s v a
  exact ⟨written_of_opcode rfl rfl rfl, written_of_opcode rfl rfl rfl,
    written_of_opcode rfl rfl rfl, written_of_opcode rfl rfl rfl,
    written_of_opcode rfl rfl rfl, written_of_opcode rfl rfl rfl,
    completesJump_of_jumpIf (rel := .ne) rfl, completesJump_of_jumpIf (rel := .eq) rfl,
    completesJump_of_jumpIf (rel := .lt) rfl, completesJump_of_jumpIf (rel := .gt) rfl,
    completesJump_of_jumpIf (rel := .le) rfl, completesJump_of_jumpIf (rel := .ge) rfl⟩

/-- Settles O26: each form is one jump on its register, with its own relation. -/
theorem registerJumpsCompareWithAc : Obligations.RegisterJumpsCompareWithAc := by
  unfold Obligations.RegisterJumpsCompareWithAc
  intro rs target s v a
  exact ⟨written_of_opcode rfl rfl rfl, written_of_opcode rfl rfl rfl,
    written_of_opcode rfl rfl rfl, written_of_opcode rfl rfl rfl,
    written_of_opcode rfl rfl rfl, written_of_opcode rfl rfl rfl,
    completesJump_of_jumpRegBody (rel := .ne) rfl, completesJump_of_jumpRegBody (rel := .eq) rfl,
    completesJump_of_jumpRegBody (rel := .lt) rfl, completesJump_of_jumpRegBody (rel := .gt) rfl,
    completesJump_of_jumpRegBody (rel := .le) rfl, completesJump_of_jumpRegBody (rel := .ge) rfl⟩

end Sys2Proof.Machine
end

section
/-! PROOFS. Statements in order, and what one push or pop, and pushes and pops in a row, can do and
leave (20_memory.md R75, R76). -/

namespace Sys2Proof.Machine

/-! ### Words -/

/-- A sum of counts wraps once (00_scope.md R10). -/
theorem wrap32_toInt_add (a b : Int) : wrap32 ((wrap32 a).toInt + b) = wrap32 (a + b) := by
  simp only [wrap32, BitVec.ofInt_add, BitVec.ofInt_toInt]

theorem holdsWord_of_mem {s t : State} {a : Nat} {v : Word} (hmem : t.mem = s.mem)
    (h : holdsWord s a v) : holdsWord t a v :=
  fun k hk => (congrArg (Memory.read · (a + k)) hmem).trans (h k hk)

theorem memoryKeptOutside_of_mem {s t u : State} {a n : Nat} (hmem : u.mem = t.mem)
    (h : memoryKeptOutside s t a n) : memoryKeptOutside s u a n :=
  fun b hb => (congrArg (Memory.read · b) hmem).trans (h b hb)

theorem wordAt_of_holdsWord {s : State} {a : Nat} {v : Word} (h : holdsWord s a v) :
    wordAt s a = v := by
  rw [wordAt, h 1 (by decide), h 2 (by decide), h 3 (by decide),
    show s.mem.read a = _ from h 0 (by decide)]
  exact le32_bytesLe32 v

theorem wordAt_congr {s t : State} {a : Nat}
    (h : ∀ b, a ≤ b → b < a + 4 → t.mem.read b = s.mem.read b) : wordAt t a = wordAt s a := by
  rw [wordAt, wordAt, h a (by omega) (by omega), h (a + 1) (by omega) (by omega),
    h (a + 2) (by omega) (by omega), h (a + 3) (by omega) (by omega)]

/-- The fault of an access depends on what only the host writes. -/
theorem accessFault_congr {s t : State} (h : hostKept s t) (access : Access) (ctx : Context)
    (a : Int) (n : Nat) : accessFault t access ctx a n = accessFault s access ctx a n := by
  obtain ⟨-, hregions, hlen, -⟩ := h
  rw [accessFault, accessFault, State.resolve_congr hregions hlen]

@[simp] theorem State.counted_zero (s : State) : s.counted 0 = s := by
  simp only [State.counted, wrap32, Int.add_zero, BitVec.ofInt_toInt]

@[simp] theorem State.counted_counted (s : State) (a b : Int) :
    (s.counted a).counted b = s.counted (a + b) := by
  simp only [State.counted, wrap32_toInt_add, Int.add_assoc]

/-! ### Statements in order -/

section Statements

variable {α β : Type} {x y : Act α} {k k' : α → Act β} {s t : State}

theorem bind_of_ok {a : α} (h : x s = .ok a t) : (x >>= k) s = k a t := by
  rw [Act.bind_apply, h]

theorem bind_of_error {f : Fault} (h : x s = .error f t) : (x >>= k) s = .error f t := by
  rw [Act.bind_apply, h]

theorem bind_congr_first (h : x s = y s) : (x >>= k) s = (y >>= k) s := by
  rw [Act.bind_apply, Act.bind_apply, h]

theorem bind_congr_rest (h : ∀ a t, x s = .ok a t → k a t = k' a t) :
    (x >>= k) s = (x >>= k') s := by
  cases hx : x s with
  | ok a t => rw [bind_of_ok hx, bind_of_ok hx, h a t hx]
  | error f t => rw [bind_of_error hx, bind_of_error hx]

theorem thenGoOn_of_ok {body : Act Unit} {a : Unit} (h : body s = .ok a t) :
    thenGoOn body s = .ok false t := by
  rw [thenGoOn_apply, h]

theorem thenGoOn_of_error {body : Act Unit} {f : Fault} (h : body s = .error f t) :
    thenGoOn body s = .error f t := by
  rw [thenGoOn_apply, h]

/-- An instruction whose statements run to their end retires (40_cycle.md R144). -/
theorem exec_of_ok {i : Instr} {q : Bool} (h : statements i (s.advance i) = .ok q t) :
    exec i s = .next (t.retire (opcodeAddress s) q) :=
  (exec_eq_cycle i s).trans (cycle_of_ok h)

/-- An instruction one of whose statements raises takes the fault (60_exceptions.md R271). -/
theorem exec_of_error {i : Instr} {f : Fault} (h : statements i (s.advance i) = .error f t) :
    exec i s = .next (t.takeFault (opcodeAddress s) f) :=
  (exec_eq_cycle i s).trans (cycle_of_error h)

end Statements

theorem advance_ip (s : State) (i : Instr) : (s.advance i).reg .ip = nextAddress i s :=
  State.reg_setReg_self s .ip _

theorem retire_reg_of_ne (s : State) (a0 : Int) (q : Bool) {r : Reg} (h : r ≠ .pc) :
    (s.retire a0 q).reg r = s.reg r :=
  (State.retire_reg ..).trans (if_neg h)

/-! ### One push (20_memory.md R75) -/

/-- The state after a push of `v`; `stackPush_of_room` ties it to `StackPush`. -/
def State.pushedWord (s : State) (v : Word) : State :=
  (s.storeBytes (s.msp - 4).toNat (bytesLe32 v)).pushed

theorem kept_pushedWord {p : Part} (hs : p ≠ .stack) (hm : p ≠ .mem) (s : State) (v : Word) :
    p.Kept s (s.pushedWord v) :=
  (kept_storeBytes hm s _ _).trans (kept_pushed hs _)

theorem stackPush_of_full {s : State} (h : s.msp - 4 < s.cfg.stackStart) (v : Word) :
    stackPush v s = .error (.stackOverflow s.msp) s := by
  rw [stackPush_apply, if_neg (by omega)]

theorem stackPush_of_accessFault {s : State} {f : Fault} (h : s.cfg.stackStart ≤ s.msp - 4)
    (hf : accessFault s .write .system (s.msp - 4) 4 = some f) (v : Word) :
    stackPush v s = .error f s := by
  rw [stackPush_apply, if_pos h, writeFault_eq_accessFault, hf]

theorem stackPush_of_no_accessFault {s : State} (h : s.cfg.stackStart ≤ s.msp - 4)
    (hf : accessFault s .write .system (s.msp - 4) 4 = none) (v : Word) :
    stackPush v s = .ok () (s.pushedWord v) := by
  rw [stackPush_apply, if_pos h, writeFault_eq_accessFault, hf, State.pushedWord]

theorem stackPush_ok {s t : State} {v : Word} {a : Unit} (h : stackPush v s = .ok a t) :
    t = s.pushedWord v := by
  rw [stackPush_apply] at h
  split at h
  · split at h <;> cases h
    rfl
  · cases h

/-! ### Pushes in a row -/

/-- Push words in order, each counted; `pushRegs_eq_pushWords` ties it to the model. -/
def pushWords : List Word → Act Unit
  | [] => pure ()
  | v :: vs => do
    pushCounted v
    pushWords vs

/-- The state after pushes of words in order, none of them counted. -/
def State.pushedWords (s : State) : List Word → State
  | [] => s
  | v :: vs => (s.pushedWord v).pushedWords vs

/-- The stack has room for `n` pushes, and each of its slots may be written (20_memory.md R75). -/
def State.HasRoom (s : State) (n : Nat) : Prop :=
  s.cfg.stackStart ≤ s.msp - 4 * n ∧
    ∀ k : Nat, k < n → accessFault s .write .system (s.msp - 4 * (k + 1)) 4 = none

theorem State.HasRoom.pushedWord {s : State} {n : Nat} (h : s.HasRoom (n + 1)) (v : Word) :
    (s.pushedWord v).HasRoom n := by
  obtain ⟨hroom, hslots⟩ := h
  refine ⟨show (s.cfg.stackStart : Int) ≤ s.msp - 4 - 4 * n by omega, fun k hk => ?_⟩
  have hslot := hslots (k + 1) (by omega)
  rwa [show s.msp - 4 * ((k + 1 : Nat) + 1) = (s.pushedWord v).msp - 4 * (k + 1) from
    show _ = s.msp - 4 - _ by omega] at hslot

theorem stackPush_of_room {s : State} {n : Nat} (h : s.HasRoom (n + 1)) (v : Word) :
    stackPush v s = .ok () (s.pushedWord v) := by
  obtain ⟨hroom, hslots⟩ := h
  exact stackPush_of_no_accessFault (by omega) (hslots 0 (by omega)) v

theorem pushCounted_of_room {s : State} {n : Nat} (h : s.HasRoom (n + 1)) (v : Word) :
    pushCounted v s = .ok () ((s.pushedWord v).counted 4) := by
  rw [pushCounted_apply, stackPush_of_room h]

theorem pushCounted_of_full {s : State} (h : s.msp - 4 < s.cfg.stackStart) (v : Word) :
    pushCounted v s = .error (.stackOverflow s.msp) s := by
  rw [pushCounted_apply, stackPush_of_full h]

theorem pushCounted_ok {s t : State} {v : Word} {a : Unit} (h : pushCounted v s = .ok a t) :
    t = (s.pushedWord v).counted 4 := by
  rw [pushCounted_apply] at h
  cases hp : stackPush v s with
  | ok _ u =>
    rw [hp] at h
    cases h
    rw [stackPush_ok hp]
  | error f u => rw [hp] at h; cases h

theorem State.pushedWords_counted (s : State) (n : Int) (vs : List Word) :
    (s.counted n).pushedWords vs = (s.pushedWords vs).counted n := by
  induction vs generalizing s with
  | nil => rfl
  | cons v vs ih => exact ih (s.pushedWord v)

/-- The counts of pushes in a row add up. -/
theorem State.pushedWords_cons_counted (s : State) (v : Word) (vs : List Word) (n : Nat) :
    (((s.pushedWord v).counted 4).pushedWords vs).counted (4 * n) =
      (s.pushedWords (v :: vs)).counted (4 * ((n + 1 : Nat) : Int)) := by
  rw [State.pushedWords_counted, State.counted_counted, State.pushedWords]
  congr 1
  omega

theorem pushWords_of_room {s : State} {vs : List Word} (h : s.HasRoom vs.length) :
    pushWords vs s = .ok () ((s.pushedWords vs).counted (4 * vs.length)) := by
  induction vs generalizing s with
  | nil => exact congrArg (EStateM.Result.ok ()) s.counted_zero.symm
  | cons v vs ih =>
    rw [pushWords, Act.bind_apply, pushCounted_of_room h]
    exact (ih (s := (s.pushedWord v).counted 4) (h.pushedWord v)).trans
      (by rw [State.pushedWords_cons_counted, List.length_cons])

/-- The first push that finds no room overflows, and those before it stay done
(60_exceptions.md R272). -/
theorem pushWords_of_full {s : State} {vs : List Word} {j : Nat} (h : s.HasRoom j)
    (hj : j < vs.length) (hfull : s.msp - 4 * (j + 1) < s.cfg.stackStart) :
    pushWords vs s =
      .error (.stackOverflow (s.msp - 4 * j)) ((s.pushedWords (vs.take j)).counted (4 * j)) := by
  induction vs generalizing s j with
  | nil => cases hj
  | cons v vs ih =>
    rw [pushWords, Act.bind_apply]
    cases j with
    | zero =>
      rw [pushCounted_of_full (by omega)]
      simp [State.pushedWords]
    | succ j =>
      rw [pushCounted_of_room h]
      refine (ih (s := (s.pushedWord v).counted 4) (h.pushedWord v) (Nat.lt_of_succ_lt_succ hj)
        (show s.msp - 4 - 4 * ((j : Int) + 1) < s.cfg.stackStart by omega)).trans ?_
      rw [State.pushedWords_cons_counted, List.take_succ_cons,
        show ((s.pushedWord v).counted 4).msp - 4 * j = s.msp - 4 * ((j + 1 : Nat) : Int) from
          show s.msp - 4 - _ = _ by omega]

theorem pushWords_ok {s t : State} {vs : List Word} {a : Unit} (h : pushWords vs s = .ok a t) :
    t = (s.pushedWords vs).counted (4 * vs.length) := by
  induction vs generalizing s with
  | nil =>
    cases h
    exact t.counted_zero.symm
  | cons v vs ih =>
    rw [pushWords, Act.bind_apply] at h
    cases hp : pushCounted v s with
    | ok _ u =>
      rw [hp] at h
      rw [ih h, pushCounted_ok hp, State.pushedWords_cons_counted, List.length_cons]
    | error f u => rw [hp] at h; cases h

theorem pushWords_append (vs ws : List Word) :
    pushWords (vs ++ ws) = (do pushWords vs; pushWords ws) := by
  induction vs with
  | nil => rfl
  | cons v vs ih => simp only [List.cons_append, pushWords, ih, bind_assoc]

/-! ### What pushes in a row leave -/

theorem kept_pushedWords {p : Part} (hs : p ≠ .stack) (hm : p ≠ .mem) (s : State)
    (vs : List Word) : p.Kept s (s.pushedWords vs) := by
  induction vs generalizing s with
  | nil => exact .refl p s
  | cons v vs ih => exact (kept_pushedWord hs hm s v).trans (ih _)

@[simp] theorem State.pushedWords_reg (s : State) (vs : List Word) (r : Reg) :
    (s.pushedWords vs).reg r = s.reg r :=
  kept_pushedWords (p := .reg r) nofun nofun s vs

@[simp] theorem State.pushedWords_depth (s : State) (vs : List Word) :
    (s.pushedWords vs).depth = s.depth :=
  kept_pushedWords (p := .depth) nofun nofun s vs

@[simp] theorem State.pushedWords_trace (s : State) (vs : List Word) :
    (s.pushedWords vs).trace = s.trace :=
  kept_pushedWords (p := .trace) nofun nofun s vs

@[simp] theorem State.pushedWords_fsz (s : State) (vs : List Word) :
    (s.pushedWords vs).fsz = s.fsz := by
  induction vs generalizing s with
  | nil => rfl
  | cons v vs ih => exact ih (s.pushedWord v)

@[simp] theorem State.pushedWords_msp (s : State) (vs : List Word) :
    (s.pushedWords vs).msp = s.msp - 4 * vs.length := by
  induction vs generalizing s with
  | nil => exact (Int.sub_zero _).symm
  | cons v vs ih =>
    rw [State.pushedWords, ih, List.length_cons]
    show s.msp - 4 - _ = _
    omega

theorem State.pushedWords_stackTypes (s : State) (vs : List Word) :
    (s.pushedWords vs).stackTypes = markersPushed s vs.length := by
  induction vs generalizing s with
  | nil => simp [State.pushedWords, markersPushed]
  | cons v vs ih =>
    rw [State.pushedWords, ih]
    have hcfg : (s.pushedWord v).cfg = s.cfg := rfl
    have htypes : (s.pushedWord v).stackTypes =
      if s.cfg.debugStackTypes then s.stackTypes ++ [.int] else s.stackTypes := rfl
    cases hd : s.cfg.debugStackTypes <;>
      simp [markersPushed, hcfg, htypes, hd, List.replicate_succ]

theorem memoryKeptOutside_pushedWords {s : State} (hwf : s.mem.wf) {vs : List Word}
    (h : 4 * vs.length ≤ s.msp) :
    memoryKeptOutside s (s.pushedWords vs) (s.msp - 4 * vs.length).toNat (4 * vs.length) := by
  induction vs generalizing s with
  | nil => exact fun _ _ => rfl
  | cons v vs ih =>
    intro b hb
    rw [List.length_cons] at h hb
    have hmsp : (s.pushedWord v).msp = s.msp - 4 := rfl
    refine (ih (s := s.pushedWord v) (Memory.writeBytes_wf hwf _ _) (by omega) b
      (by omega)).trans (Memory.read_writeBytes_outside hwf _ _ ?_)
    rw [bytesLe32_length]
    omega

/-- The word pushed at place `k` lies `k` slots below the first one. -/
theorem holdsWord_pushedWords {s : State} (hwf : s.mem.wf) {vs : List Word}
    (h : 4 * vs.length ≤ s.msp) {k : Nat} {v : Word} (hk : vs[k]? = some v) :
    holdsWord (s.pushedWords vs) (s.msp - 4 * (k + 1)).toNat v := by
  induction vs generalizing s k with
  | nil => cases hk
  | cons w vs ih =>
    rw [List.length_cons] at h
    have hwf' : (s.pushedWord w).mem.wf := Memory.writeBytes_wf hwf _ _
    have hmsp : (s.pushedWord w).msp = s.msp - 4 := rfl
    cases k with
    | zero =>
      obtain rfl : w = v := Option.some.inj hk
      intro i hi
      refine (memoryKeptOutside_pushedWords hwf' (by omega) _ (.inr (by omega))).trans ?_
      exact holdsWord_storeBytes hwf (s.msp - 4).toNat w i hi
    | succ k =>
      have hword := ih hwf' (by omega) (k := k) hk
      rwa [show (s.pushedWord w).msp - 4 * ((k : Int) + 1) = s.msp - 4 * ((k + 1 : Nat) + 1) by
        omega] at hword

/-! ### One pop (20_memory.md R76) -/

/-- A marker is missing for the top slot (20_memory.md R80). -/
def State.LacksMarker (s : State) : Prop := s.cfg.debugStackTypes = true ∧ s.stackTypes = []

theorem getLast?_markers (l : List StackType) : l.getLast? ≠ some .int ↔ l = [] := by
  cases h : l.getLast? with
  | none => simp [List.getLast?_eq_none_iff.mp h]
  | some m =>
    cases m
    have hne : l ≠ [] := by rintro rfl; cases h
    simp [hne]

theorem stackPop_of_empty {s : State} (h : s.cfg.stackEnd < s.msp + 4) :
    stackPop s = .error (.stackUnderflow s.msp) s := by
  rw [stackPop_apply, if_neg (by omega)]

theorem stackPop_of_lacksMarker {s : State} (h : s.msp + 4 ≤ s.cfg.stackEnd) (hm : s.LacksMarker) :
    stackPop s = .error (.stackIntegrity s.msp) s := by
  obtain ⟨hd, htypes⟩ := hm
  rw [stackPop_apply, if_pos h, if_pos ⟨hd, (getLast?_markers _).mpr htypes⟩]

theorem stackPop_eq_load {s : State} (h : s.msp + 4 ≤ s.cfg.stackEnd) (hm : ¬ s.LacksMarker) :
    stackPop s = (do let v ← loadInt s.msp .system; update State.popped; pure v : Act Word) s := by
  rw [stackPop_apply, if_pos h, if_neg (fun hd => hm ⟨hd.1, (getLast?_markers _).mp hd.2⟩)]
  simp only [Act.bind_apply, loadInt_apply]
  cases s.memRead s.msp 4 .system false <;> rfl

theorem stackPop_of_accessFault {s : State} {f : Fault} (h : s.msp + 4 ≤ s.cfg.stackEnd)
    (hm : ¬ s.LacksMarker) (hf : accessFault s .read .system s.msp 4 = some f) :
    stackPop s = .error f s := by
  rw [stackPop_eq_load h hm, bind_of_error (loadInt_of_accessFault hf)]

theorem stackPop_of_no_accessFault {s : State} (h : s.msp + 4 ≤ s.cfg.stackEnd)
    (hm : ¬ s.LacksMarker) (hf : accessFault s .read .system s.msp 4 = none) :
    stackPop s = .ok (wordAt s s.msp.toNat) s.popped := by
  rw [stackPop_eq_load h hm, bind_of_ok (loadInt_of_no_accessFault hf)]
  rfl

theorem stackPop_ok {s t : State} {v : Word} (h : stackPop s = .ok v t) :
    v = wordAt s s.msp.toNat ∧ t = s.popped := by
  by_cases hend : s.cfg.stackEnd < s.msp + 4
  · rw [stackPop_of_empty hend] at h
    cases h
  · by_cases hm : s.LacksMarker
    · rw [stackPop_of_lacksMarker (by omega) hm] at h
      cases h
    · cases hf : accessFault s .read .system s.msp 4 with
      | some f =>
        rw [stackPop_of_accessFault (by omega) hm hf] at h
        cases h
      | none =>
        rw [stackPop_of_no_accessFault (by omega) hm hf] at h
        cases h
        exact ⟨rfl, rfl⟩

/-- Markers removed in two turns. -/
theorem take_sub_take_sub {α : Type} (l : List α) (m n : Nat) :
    (l.take (l.length - m)).take ((l.take (l.length - m)).length - n) =
      l.take (l.length - (m + n)) := by
  rw [List.take_take, List.length_take]
  congr 1
  omega

theorem markersPopped_popped (s : State) (n : Nat) :
    markersPopped s.popped n = markersPopped s (1 + n) := by
  cases hd : s.cfg.debugStackTypes with
  | false => simp [markersPopped, hd]
  | true =>
    simp only [markersPopped, State.popped_cfg, State.popped_stackTypes, hd, if_true,
      List.dropLast_eq_take, take_sub_take_sub]

theorem markersPopped_droppedTo (s : State) (a : Int) (n : Nat) :
    markersPopped (s.droppedTo a) n = markersPopped s ((dropCount s.msp a).toNat + n) := by
  cases hd : s.cfg.debugStackTypes with
  | false => simp [markersPopped, hd]
  | true =>
    simp only [markersPopped, State.droppedTo_cfg, State.droppedTo_stackTypes, hd, if_true,
      take_sub_take_sub]

/-! ### Pops in a row -/

/-- The write that follows a pop, where the slot belongs to a register. -/
def writeSlot : Option Reg → Word → Act Unit
  | none, _ => pure ()
  | some r, v => writeReg .system r v

/-- Pop slots in order, each into its register or into none; `popRegs_eq_popInto` and
`discardSlots_eq_popInto` tie it to the model. -/
def popInto : List (Option Reg) → Act Unit
  | [] => pure ()
  | o :: os => do
    let v ← stackPop
    writeSlot o v
    popInto os

/-- The state after one pop into a register or into none. -/
def State.poppedInto (s : State) : Option Reg → State
  | none => s.popped
  | some r => s.popped.setReg r (wordAt s s.msp.toNat)

/-- The state after pops in order. -/
def State.unwound (s : State) : List (Option Reg) → State
  | [] => s
  | o :: os => (s.poppedInto o).unwound os

/-- The stack has `n` slots to pop, with their markers, and each may be read (20_memory.md R76). -/
def State.HasSlots (s : State) (n : Nat) : Prop :=
  s.msp + 4 * n ≤ s.cfg.stackEnd ∧ (s.cfg.debugStackTypes = true → n ≤ s.stackTypes.length) ∧
    ∀ k : Nat, k < n → accessFault s .read .system (s.msp + 4 * k) 4 = none

theorem popRegs_eq_popInto (rs : List Reg) : popRegs rs = popInto (rs.map some) := by
  induction rs with
  | nil => rfl
  | cons r rs ih => rw [popRegs, List.map_cons, popInto, ih]; rfl

theorem discardSlots_eq_popInto (n : Nat) : discardSlots n = popInto (List.replicate n none) := by
  induction n with
  | zero => rfl
  | succ n ih => rw [discardSlots, List.replicate_succ, popInto, ih]; rfl

theorem popInto_append (os os' : List (Option Reg)) :
    popInto (os ++ os') = (do popInto os; popInto os') := by
  induction os with
  | nil => rfl
  | cons o os ih => simp only [List.cons_append, popInto, ih, bind_assoc]

@[simp] theorem State.poppedInto_msp (s : State) (o : Option Reg) :
    (s.poppedInto o).msp = s.msp + 4 := by cases o <;> rfl

@[simp] theorem State.poppedInto_mem (s : State) (o : Option Reg) :
    (s.poppedInto o).mem = s.mem := by cases o <;> rfl

@[simp] theorem State.poppedInto_fsz (s : State) (o : Option Reg) :
    (s.poppedInto o).fsz = s.fsz := by cases o <;> rfl

theorem markersPopped_poppedInto (s : State) (o : Option Reg) (n : Nat) :
    markersPopped (s.poppedInto o) n = markersPopped s (1 + n) := by
  rw [← markersPopped_popped]
  cases o <;> rfl

theorem kept_poppedInto {p : Part} {o : Option Reg} (hs : p ≠ .stack)
    (hr : ∀ r, p = .reg r → o ≠ some r) (s : State) : p.Kept s (s.poppedInto o) := by
  cases o with
  | none => exact kept_popped hs s
  | some r => exact (kept_popped hs s).trans (kept_setReg (fun e => hr r e rfl) _ _)

theorem State.HasSlots.poppedInto {s : State} {n : Nat} (h : s.HasSlots (n + 1)) (o : Option Reg) :
    (s.poppedInto o).HasSlots n := by
  obtain ⟨hend, hmark, hslots⟩ := h
  have hhost : hostKept s (s.poppedInto o) := kept_poppedInto (p := .host) nofun nofun s
  have htypes : (s.poppedInto o).stackTypes = s.popped.stackTypes := by cases o <;> rfl
  have ⟨hcfg, _⟩ := hhost
  refine ⟨?room, fun hd => ?mark, fun k hk => ?slot⟩
  case room =>
    rw [hcfg, State.poppedInto_msp]
    omega
  case mark =>
    rw [hcfg] at hd
    have := hmark hd
    rw [htypes, State.popped_stackTypes, if_pos hd, List.length_dropLast]
    omega
  case slot =>
    have hslot := hslots (k + 1) (by omega)
    rw [accessFault_congr hhost, State.poppedInto_msp]
    rwa [show s.msp + 4 * ((k + 1 : Nat) : Int) = s.msp + 4 + 4 * k by omega] at hslot

theorem stackPop_of_slots {s : State} {n : Nat} (h : s.HasSlots (n + 1)) :
    stackPop s = .ok (wordAt s s.msp.toNat) s.popped := by
  obtain ⟨hend, hmark, hslots⟩ := h
  refine stackPop_of_no_accessFault (by omega) ?_ (by simpa using hslots 0 (by omega))
  rintro ⟨hd, htypes⟩
  have := hmark hd
  rw [htypes, List.length_nil] at this
  omega

theorem popInto_cons_of_ok {s t : State} {v : Word} (h : stackPop s = .ok v t) (o : Option Reg)
    (os : List (Option Reg)) : popInto (o :: os) s = popInto os (s.poppedInto o) := by
  obtain ⟨rfl, rfl⟩ := stackPop_ok h
  have hwrite : writeSlot o (wordAt s s.msp.toNat) s.popped = .ok () (s.poppedInto o) := by
    cases o with
    | none => rfl
    | some r => exact writeReg_system r _ _
  rw [popInto, bind_of_ok h, bind_of_ok hwrite]

theorem popInto_of_slots {s : State} {os : List (Option Reg)} (h : s.HasSlots os.length) :
    popInto os s = .ok () (s.unwound os) := by
  induction os generalizing s with
  | nil => rfl
  | cons o os ih =>
    rw [popInto_cons_of_ok (stackPop_of_slots h), ih (h.poppedInto o), State.unwound]

/-- A pop that faults after `m` others leaves what those have done (60_exceptions.md R272). -/
theorem popInto_of_error {s : State} {os : List (Option Reg)} {m : Nat} {f : Fault}
    (h : s.HasSlots m) (hm : m < os.length)
    (hf : stackPop (s.unwound (os.take m)) = .error f (s.unwound (os.take m))) :
    popInto os s = .error f (s.unwound (os.take m)) := by
  induction os generalizing s m with
  | nil => cases hm
  | cons o os ih =>
    cases m with
    | zero => exact bind_of_error hf
    | succ m =>
      rw [popInto_cons_of_ok (stackPop_of_slots h)]
      exact ih (h.poppedInto o) (Nat.lt_of_succ_lt_succ hm) hf

theorem popInto_ok {s t : State} {os : List (Option Reg)} {a : Unit} (h : popInto os s = .ok a t) :
    t = s.unwound os := by
  induction os generalizing s with
  | nil => cases h; rfl
  | cons o os ih =>
    cases hp : stackPop s with
    | ok v u =>
      rw [popInto_cons_of_ok hp] at h
      exact ih h
    | error f u =>
      rw [popInto, bind_of_error hp] at h
      cases h

/-- A pop whose value the rest uses: it is the word on top of the stack. -/
theorem stackPop_bind {α : Type} (k : Word → Act α) (s : State) :
    (stackPop >>= k) s = (do popInto [none]; k (wordAt s s.msp.toNat) : Act α) s := by
  cases hp : stackPop s with
  | ok v t =>
    obtain ⟨rfl, rfl⟩ := stackPop_ok hp
    have hinto : popInto [none] s = .ok () s.popped := (popInto_cons_of_ok hp none []).trans rfl
    rw [bind_of_ok hp, bind_of_ok hinto]
  | error f t =>
    have hinto : popInto [none] s = .error f t := bind_of_error hp
    rw [bind_of_error hp, bind_of_error hinto]

/-! ### What pops in a row leave -/

theorem kept_unwound {p : Part} {os : List (Option Reg)} (hs : p ≠ .stack)
    (hr : ∀ r, p = .reg r → some r ∉ os) (s : State) : p.Kept s (s.unwound os) := by
  induction os generalizing s with
  | nil => exact .refl p s
  | cons o os ih =>
    refine (kept_poppedInto hs (fun r e ho => hr r e (by simp [ho])) s).trans (ih (fun r e => ?_) _)
    exact fun hmem => hr r e (List.mem_cons_of_mem o hmem)

theorem unwound_hostKept (s : State) (os : List (Option Reg)) : hostKept s (s.unwound os) :=
  kept_unwound (p := .host) nofun nofun s

@[simp] theorem State.unwound_mem (s : State) (os : List (Option Reg)) :
    (s.unwound os).mem = s.mem := kept_unwound (p := .mem) nofun nofun s

@[simp] theorem State.unwound_depth (s : State) (os : List (Option Reg)) :
    (s.unwound os).depth = s.depth := kept_unwound (p := .depth) nofun nofun s

@[simp] theorem State.unwound_trace (s : State) (os : List (Option Reg)) :
    (s.unwound os).trace = s.trace := kept_unwound (p := .trace) nofun nofun s

@[simp] theorem State.unwound_msp (s : State) (os : List (Option Reg)) :
    (s.unwound os).msp = s.msp + 4 * os.length := by
  induction os generalizing s with
  | nil => exact (Int.add_zero _).symm
  | cons o os ih =>
    rw [State.unwound, ih, State.poppedInto_msp, List.length_cons]
    omega

@[simp] theorem State.unwound_fsz (s : State) (os : List (Option Reg)) :
    (s.unwound os).fsz = s.fsz := by
  induction os generalizing s with
  | nil => rfl
  | cons o os ih => rw [State.unwound, ih, State.poppedInto_fsz]

theorem markersPopped_unwound (s : State) (os : List (Option Reg)) (n : Nat) :
    markersPopped (s.unwound os) n = markersPopped s (os.length + n) := by
  induction os generalizing s n with
  | nil => rw [State.unwound, List.length_nil, Nat.zero_add]
  | cons o os ih =>
    rw [State.unwound, ih, markersPopped_poppedInto, List.length_cons]
    congr 1
    omega

theorem markersPopped_zero (s : State) : markersPopped s 0 = s.stackTypes := by
  cases hd : s.cfg.debugStackTypes <;> simp [markersPopped, hd]

theorem State.unwound_stackTypes (s : State) (os : List (Option Reg)) :
    (s.unwound os).stackTypes = markersPopped s os.length := by
  rw [← markersPopped_zero, markersPopped_unwound, Nat.add_zero]

theorem State.unwound_append (s : State) (os os' : List (Option Reg)) :
    s.unwound (os ++ os') = (s.unwound os).unwound os' := by
  induction os generalizing s with
  | nil => rfl
  | cons o os ih => exact ih (s.poppedInto o)

theorem State.HasSlots.unwound {s : State} {n : Nat} {os : List (Option Reg)}
    (h : s.HasSlots (os.length + n)) : (s.unwound os).HasSlots n := by
  induction os generalizing s with
  | nil => rwa [List.length_nil, Nat.zero_add] at h
  | cons o os ih =>
    rw [List.length_cons, Nat.add_right_comm] at h
    exact ih (h.poppedInto o)

/-- A register popped once holds the word of its slot. -/
theorem unwound_reg_of_getElem? {s : State} {os : List (Option Reg)} {i : Nat} {r : Reg}
    (hmsp : 0 ≤ s.msp) (hi : os[i]? = some (some r))
    (hone : ∀ j, os[j]? = some (some r) → j = i) :
    (s.unwound os).reg r = wordAt s (s.msp.toNat + 4 * i) := by
  induction os generalizing s i with
  | nil => cases hi
  | cons o os ih =>
    cases i with
    | zero =>
      obtain rfl : o = some r := Option.some.inj hi
      have hnot : some r ∉ os := fun hmem => by
        obtain ⟨j, hj⟩ := List.mem_iff_getElem?.mp hmem
        exact Nat.succ_ne_zero j (hone (j + 1) hj)
      have hkept : (s.unwound (some r :: os)).reg r = (s.poppedInto (some r)).reg r :=
        kept_unwound (p := .reg r) (os := os) nofun (fun r' e => by cases e; exact hnot) _
      rw [hkept, State.poppedInto, State.reg_setReg_self, Nat.mul_zero, Nat.add_zero]
    | succ i =>
      have hrest := ih (s := s.poppedInto o) (i := i) (by rw [State.poppedInto_msp]; omega) hi
        fun j hj => Nat.succ.inj (hone (j + 1) hj)
      rw [State.unwound, hrest, State.poppedInto_msp,
        show (s.msp + 4).toNat + 4 * i = s.msp.toNat + 4 * (i + 1) by omega]
      exact wordAt_congr fun b _ _ => by rw [State.poppedInto_mem]

end Sys2Proof.Machine
end

section
/-! PROOFS. The statements of 44_stack_and_call.md: PUSH, POP and SWAP as pushes and pops, CALL as
ten pushes, RET as the pops of a frame, and a return after its call. -/

namespace Sys2Proof.Machine

/-! ### PUSH (44_stack_and_call.md R220, R226, R227) -/

theorem completesPush_of_room {i : Instr} {s : State} {v : Word} (hwf : s.mem.wf)
    (hroom : s.cfg.stackStart ≤ s.msp - 4)
    (hf : accessFault s .write .system (s.msp - 4) 4 = none)
    (h : statements i (s.advance i) = thenGoOn (cpuPush v) (s.advance i)) :
    CompletesPush i s v := by
  have hpush : statements i (s.advance i) = .ok false
      ((((s.advance i).pushedWords [v]).counted 4).setReg .sp (wrap32 (s.msp - 4))) := by
    rw [h, thenGoOn_apply, cpuPush_apply,
      stackPush_of_no_accessFault (s := s.advance i) hroom hf]
    rfl
  have hmsp : 4 * (([v].length : Nat) : Int) ≤ (s.advance i).msp := by
    rw [List.length_singleton, State.advance_msp]
    omega
  have hword := holdsWord_pushedWords (s := s.advance i) hwf hmsp (k := 0) rfl
  have hout := memoryKeptOutside_pushedWords (s := s.advance i) hwf hmsp
  rw [State.advance_msp] at hword hout
  refine ⟨_, exec_of_ok hpush, completed_of_ok hpush, ?next,
    by simp, ?sp, by simp, holdsWord_of_mem (by simp) hword,
    memoryKeptOutside_of_mem (by simp) hout, ?types, by simp, fun r hr => ?regs, by simp⟩
  case next =>
    rw [retire_reg_of_ne _ _ _ (by decide), State.reg_setReg_of_ne _ _ (by decide),
      State.counted_reg, State.pushedWords_reg, advance_ip]
  case sp => rw [retire_reg_of_ne _ _ _ (by decide), State.reg_setReg_self]
  case types =>
    rw [State.retire_stackTypes, State.setReg_stackTypes, State.counted_stackTypes,
      State.pushedWords_stackTypes]
    rfl
  case regs =>
    simp only [List.mem_cons, List.not_mem_nil, or_false, not_or] at hr
    obtain ⟨hsp, hip, hpc⟩ := hr
    rw [retire_reg_of_ne _ _ _ hpc, State.reg_setReg_of_ne _ _ hsp, State.counted_reg,
      State.pushedWords_reg, advance_reg_of_ne s i hip]

/-- An instruction whose statements are a push's faults as the push does, before anything has
changed, or completes as the push. -/
theorem pushesWord_of_cpuPush {i : Instr} {s : State} {v : Word} (hwf : s.mem.wf)
    (h : statements i (s.advance i) = thenGoOn (cpuPush v) (s.advance i)) : PushesWord i s v := by
  rw [PushesWord]
  split
  case isTrue hfull =>
    refine onlyFaults_of_error ?_
    rw [h, thenGoOn_apply, cpuPush_apply, stackPush_of_full (s := s.advance i) hfull]
    rfl
  case isFalse hroom =>
    cases hf : accessFault s .write .system (s.msp - 4) 4 with
    | some f =>
      refine onlyFaults_of_error ?_
      rw [h, thenGoOn_apply, cpuPush_apply,
        stackPush_of_accessFault (s := s.advance i) (not_lt.mp hroom) hf]
    | none => exact completesPush_of_room hwf (not_lt.mp hroom) hf h

/-- Settles O27: each form is one `CpuPush`, of its literal or of what it reads in its register. -/
theorem pushStoresOneSlot : Obligations.PushStoresOneSlot := by
  unfold Obligations.PushStoresOneSlot
  intro lit rs s hwf
  refine ⟨written_of_opcode rfl rfl rfl, written_of_opcode rfl rfl rfl,
    pushesWord_of_cpuPush hwf rfl, pushesWord_of_cpuPush hwf ?_⟩
  rw [statements, thenGoOn_apply, thenGoOn_apply, pushRegBody, bind_of_ok (getReg_apply _ _),
    advance_reg_eq_operandOf]

/-! ### POP (44_stack_and_call.md R221, R228) -/

/-- The state after `CpuPop`; `cpuPop_of_no_accessFault` ties it to the action. -/
def State.cpuPopped (s : State) : State :=
  (s.popped.counted (-4)).setReg .sp (wrap32 (s.msp + 4))

theorem cpuPop_of_error {s : State} {f : Fault} (h : stackPop s = .error f s) :
    cpuPop s = .error f s := by
  rw [cpuPop_apply, h]

theorem cpuPop_of_ok {s : State} {v : Word} (h : stackPop s = .ok v s.popped) :
    cpuPop s = .ok v s.cpuPopped := by
  rw [cpuPop_apply, h]
  rfl

/-- What `PopDone` says of the state after the pop holds after all that keeps the same parts. -/
theorem popDone_of_kept {i : Instr} {s t : State}
    (h : ∀ p ∈ [Part.reg .ip, .reg .sp, .stack, .depth, .mem, .trace],
      p.Kept (s.advance i).cpuPopped t) : PopDone i s t := by
  obtain ⟨hmsp, htypes, hfsz⟩ := h .stack (by decide)
  have hip : t.reg .ip = _ := h (.reg .ip) (by decide)
  have hsp : t.reg .sp = _ := h (.reg .sp) (by decide)
  have hmem : t.mem = s.mem := h .mem (by decide)
  refine ⟨?ip, hmsp, ?sp, hfsz, ?types, h .depth (by decide), fun b => by rw [hmem],
    h .trace (by decide)⟩
  case ip =>
    rw [hip, State.cpuPopped, State.reg_setReg_of_ne _ _ (by decide), State.counted_reg,
      State.popped_reg, advance_ip]
  case sp => rw [hsp, State.cpuPopped, State.reg_setReg_self, State.advance_msp]
  case types =>
    have hpopped : (s.advance i).cpuPopped.stackTypes =
        if s.cfg.debugStackTypes then s.stackTypes.dropLast else s.stackTypes := rfl
    rw [htypes, hpopped, markersPopped, List.dropLast_eq_take]

theorem regsKept_cpuPopped (s : State) (i : Instr) :
    regsKept s (s.advance i).cpuPopped [.sp, .ip] := by
  intro r hr
  simp only [List.mem_cons, List.not_mem_nil, or_false, not_or] at hr
  obtain ⟨hsp, hip⟩ := hr
  rw [State.cpuPopped, State.reg_setReg_of_ne _ _ hsp, State.counted_reg, State.popped_reg,
    advance_reg_of_ne s i hip]

section Pop

variable {rd : Reg} {s : State}

theorem onlyFaults_popReg {f : Fault}
    (h : stackPop (s.advance (.popReg rd)) = .error f (s.advance (.popReg rd))) :
    OnlyFaults (.popReg rd) s f :=
  onlyFaults_of_error (thenGoOn_of_error (bind_of_error (cpuPop_of_error h)))

theorem statements_popReg_of_ok {v : Word}
    (h : stackPop (s.advance (.popReg rd)) = .ok v (s.advance (.popReg rd)).popped) :
    statements (.popReg rd) (s.advance (.popReg rd)) =
      thenGoOn (writeDestination rd v) (s.advance (.popReg rd)).cpuPopped := by
  rw [statements, thenGoOn_apply, popRegBody, bind_of_ok (cpuPop_of_ok h), thenGoOn_apply]

theorem popReg_faults_after_pop {v : Word} (hrd : isPrivileged rd = true)
    (h : stackPop (s.advance (.popReg rd)) = .ok v (s.advance (.popReg rd)).popped) :
    ∃ t, exec (.popReg rd) s = .next t ∧ FaultTaken s t (.invalidRegister rd) ∧
      PopDone (.popReg rd) s t ∧ regsKept s t [.sp, .ip] := by
  have hbody : statements (.popReg rd) (s.advance (.popReg rd)) =
      .error (.invalidRegister rd) (s.advance (.popReg rd)).cpuPopped := by
    rw [statements_popReg_of_ok h, thenGoOn_apply, writeDestination_apply, if_pos hrd]
  refine ⟨_, exec_of_error hbody, faultTaken_of_error hbody,
    popDone_of_kept fun p hp => kept_takeFault ?_ _ _ _, regsKept_cpuPopped s _⟩
  rintro rfl
  exact absurd hp (by decide)

theorem popReg_loads {v : Word} (hrd : isPrivileged rd = false)
    (h : stackPop (s.advance (.popReg rd)) = .ok v (s.advance (.popReg rd)).popped) :
    ∃ t, exec (.popReg rd) s = .next t ∧ Completed s t false ∧ PopDone (.popReg rd) s t ∧
      t.reg rd = v ∧ regsKept s t [rd, .sp, .ip, .pc] := by
  have hbody : statements (.popReg rd) (s.advance (.popReg rd)) =
      .ok false ((s.advance (.popReg rd)).cpuPopped.setReg rd v) := by
    rw [statements_popReg_of_ok h, thenGoOn_apply, writeDestination_apply, hrd]
    rfl
  have hne : ∀ r, isPrivileged r = true → r ≠ rd := by
    rintro r hr rfl
    exact Bool.false_ne_true (hrd.symm.trans hr)
  refine ⟨_, exec_of_ok hbody, completed_of_ok hbody,
    popDone_of_kept fun p hp => (kept_setReg ?dest _ v).trans (kept_retire ?pc ?run _ _ _), ?value,
    fun r hr => ?regs⟩
  case dest =>
    rintro rfl
    simp only [List.mem_cons, Part.reg.injEq, reduceCtorEq, List.not_mem_nil, or_false] at hp
    obtain rfl | rfl := hp <;> cases hrd
  case pc => rintro rfl; exact absurd hp (by decide)
  case run => rintro rfl; exact absurd hp (by decide)
  case value => rw [retire_reg_of_ne _ _ _ (hne .pc rfl).symm, State.reg_setReg_self]
  case regs =>
    simp only [List.mem_cons, List.not_mem_nil, or_false, not_or] at hr
    obtain ⟨hrd, hsp, hip, hpc⟩ := hr
    rw [retire_reg_of_ne _ _ _ hpc, State.reg_setReg_of_ne _ _ hrd,
      regsKept_cpuPopped s _ r (by simp [hsp, hip])]

end Pop

/-- Settles O28: the faults of the pop come first, then the write of the destination. -/
theorem popLoadsTheTopSlot : Obligations.PopLoadsTheTopSlot := by
  unfold Obligations.PopLoadsTheTopSlot
  intro rd s
  refine ⟨written_of_opcode rfl rfl rfl, ?_⟩
  split
  case isTrue hempty => exact onlyFaults_popReg (stackPop_of_empty (s := s.advance _) hempty)
  case isFalse hslot =>
    have hslot : s.msp + 4 ≤ s.cfg.stackEnd := not_lt.mp hslot
    split
    case isTrue hmark =>
      exact onlyFaults_popReg (stackPop_of_lacksMarker (s := s.advance _) hslot hmark)
    case isFalse hmark =>
      cases hf : accessFault s .read .system s.msp 4 with
      | some f =>
        exact onlyFaults_popReg
          (stackPop_of_accessFault (s := s.advance _) hslot hmark hf)
      | none =>
        have hpop := stackPop_of_no_accessFault (s := s.advance (.popReg rd)) hslot hmark hf
        dsimp only
        split
        case isTrue hrd => exact popReg_faults_after_pop hrd hpop
        case isFalse hrd => exact popReg_loads (Bool.eq_false_of_not_eq_true hrd) hpop

/-! ### SWAP (44_stack_and_call.md R229) -/

theorem markers_eq_replicate (l : List StackType) : l = List.replicate l.length .int :=
  List.eq_replicate_iff.mpr ⟨rfl, fun m _ => by cases m; rfl⟩

/-- As many pushes as pops bring the markers back, for all markers are alike. -/
theorem markersPushed_unwound {s : State} {os : List (Option Reg)}
    (h : s.cfg.debugStackTypes = true → os.length ≤ s.stackTypes.length) :
    markersPushed (s.unwound os) os.length = s.stackTypes := by
  obtain ⟨hcfg, -⟩ := unwound_hostKept s os
  rw [markersPushed, hcfg, State.unwound_stackTypes, markersPopped]
  split
  case isFalse => rfl
  case isTrue hd =>
    have := h hd
    rw [markers_eq_replicate s.stackTypes, List.length_replicate, List.take_replicate,
      List.replicate_append_replicate]
    congr 1
    omega

/-- The state after the statements of SWAP; `swapBody_of_slots` ties it to the model. -/
def State.swapped (s : State) : State :=
  ((s.unwound [none, none]).pushedWords
    [wordAt s s.msp.toNat, wordAt s (s.msp + 4).toNat]).setReg .sp (wrap32 s.msp)

theorem swapBody_of_few {s : State} (h : s.cfg.stackEnd < s.msp + 8) :
    swapBody s = .error (.stackUnderflow s.msp) s := by
  rw [swapBody, theState_bind, require_bind, if_neg (by simpa using h)]

theorem swapBody_of_two {s : State} (h : s.msp + 8 ≤ s.cfg.stackEnd) :
    swapBody s = (do
      let a ← stackPop
      let b ← stackPop
      stackPush a
      stackPush b
      mirrorSp : Act Unit) s := by
  rw [swapBody, theState_bind, require_bind, if_pos (decide_eq_true h)]

/-- With one marker the first pop is done, and the second finds none. -/
theorem swapBody_of_one_marker {s : State} (h : s.msp + 8 ≤ s.cfg.stackEnd)
    (hd : s.cfg.debugStackTypes = true) (hone : s.stackTypes.length = 1)
    (hf : accessFault s .read .system s.msp 4 = none) :
    s.popped.stackTypes = [] ∧ swapBody s = .error (.stackIntegrity (s.msp + 4)) s.popped := by
  have hnone : s.popped.stackTypes = [] := by
    rw [State.popped_stackTypes, if_pos hd]
    exact List.length_eq_zero_iff.mp (by rw [List.length_dropLast, hone])
  have hmark : ¬ s.LacksMarker := fun ⟨_, hnil⟩ => by simp [hnil] at hone
  have hpop := stackPop_of_no_accessFault (by omega) hmark hf
  have hpop' := stackPop_of_lacksMarker (s := s.popped)
    (by rw [State.popped_msp, State.popped_cfg]; omega) ⟨hd, hnone⟩
  refine ⟨hnone, (swapBody_of_two h).trans ?_⟩
  rw [bind_of_ok hpop, bind_of_error hpop', State.popped_msp]

theorem swapBody_of_slots {s : State} (h : s.HasSlots 2) (h' : (s.unwound [none, none]).HasRoom 2) :
    swapBody s = .ok () s.swapped := by
  have ⟨hend, _⟩ := h
  have hpop := stackPop_of_slots h
  have hpop' : stackPop s.popped = .ok (wordAt s (s.msp + 4).toNat) (s.unwound [none, none]) :=
    stackPop_of_slots (h.poppedInto none)
  have hpush := stackPush_of_room h' (wordAt s s.msp.toNat)
  have hpush' := stackPush_of_room (h'.pushedWord (wordAt s s.msp.toNat))
    (wordAt s (s.msp + 4).toNat)
  have hpushed : ((s.unwound [none, none]).pushedWord (wordAt s s.msp.toNat)).pushedWord
      (wordAt s (s.msp + 4).toNat) = (s.unwound [none, none]).pushedWords
        [wordAt s s.msp.toNat, wordAt s (s.msp + 4).toNat] := rfl
  have hmsp : ((s.unwound [none, none]).pushedWords
      [wordAt s s.msp.toNat, wordAt s (s.msp + 4).toNat]).msp = s.msp := by simp
  rw [swapBody_of_two (by omega), bind_of_ok hpop, bind_of_ok hpop', bind_of_ok hpush,
    bind_of_ok hpush', hpushed, mirrorSp_apply, hmsp, State.swapped]

section Swap

variable {s : State}

theorem hasSlots_two (h : s.msp + 8 ≤ s.cfg.stackEnd)
    (hd : s.cfg.debugStackTypes = true → 2 ≤ s.stackTypes.length)
    (hf : accessFault s .read .system s.msp 4 = none)
    (hf' : accessFault s .read .system (s.msp + 4) 4 = none) : s.HasSlots 2 := by
  refine ⟨by omega, hd, fun k hk => ?_⟩
  match k, hk with
  | 0, _ => simpa using hf
  | 1, _ => exact hf'

theorem unwound_two_msp (s : State) : (s.unwound [none, none]).msp = s.msp + 8 :=
  State.unwound_msp s _

theorem hasRoom_two (h : s.cfg.stackStart ≤ s.msp)
    (hf : accessFault s .write .system s.msp 4 = none)
    (hf' : accessFault s .write .system (s.msp + 4) 4 = none) :
    (s.unwound [none, none]).HasRoom 2 := by
  obtain ⟨hcfg, -⟩ := unwound_hostKept s [none, none]
  refine ⟨by rw [hcfg, unwound_two_msp]; omega, fun k hk => ?_⟩
  rw [accessFault_congr (unwound_hostKept s _), unwound_two_msp]
  match k, hk with
  | 0, _ => rwa [show s.msp + 8 - 4 * (((0 : Nat) : Int) + 1) = s.msp + 4 by omega]
  | 1, _ => rwa [show s.msp + 8 - 4 * (((1 : Nat) : Int) + 1) = s.msp by omega]

theorem swapped_reg (s : State) (r : Reg) :
    s.swapped.reg r = if r = .sp then wrap32 s.msp else s.reg r := by
  have hkept : (s.unwound [none, none]).reg r = s.reg r :=
    kept_unwound (p := .reg r) nofun (fun _ _ => by simp) s
  rw [State.swapped, State.reg_setReg, State.pushedWords_reg, hkept]

theorem stackKept_swapped (h : s.cfg.debugStackTypes = true → 2 ≤ s.stackTypes.length) :
    stackKept s s.swapped := by
  refine ⟨by simp [State.swapped], ?_, by simp [State.swapped], by simp [State.swapped]⟩
  rw [State.swapped, State.setReg_stackTypes, State.pushedWords_stackTypes]
  exact markersPushed_unwound h

theorem swapped_mem (s : State) :
    s.swapped.mem = ((s.unwound [none, none]).pushedWords
      [wordAt s s.msp.toNat, wordAt s (s.msp + 4).toNat]).mem := rfl

theorem memoryKeptOutside_swapped (hwf : s.mem.wf) (h : 0 ≤ s.msp) :
    memoryKeptOutside s s.swapped s.msp.toNat 8 := by
  have hout := memoryKeptOutside_pushedWords (s := s.unwound [none, none])
    (vs := [wordAt s s.msp.toNat, wordAt s (s.msp + 4).toNat])
    (by rw [State.unwound_mem]; exact hwf)
    (by rw [unwound_two_msp]; exact show 4 * ((2 : Nat) : Int) ≤ s.msp + 8 by omega)
  intro b hb
  rw [swapped_mem, hout b ?_, State.unwound_mem]
  rw [unwound_two_msp]
  exact show b < (s.msp + 8 - 4 * ((2 : Nat) : Int)).toNat ∨
    (s.msp + 8 - 4 * ((2 : Nat) : Int)).toNat + 8 ≤ b by omega

theorem holdsWord_swapped (hwf : s.mem.wf) (h : 0 ≤ s.msp) :
    holdsWord s.swapped s.msp.toNat (wordAt s (s.msp.toNat + 4)) ∧
      holdsWord s.swapped (s.msp.toNat + 4) (wordAt s s.msp.toNat) := by
  have hword {k : Nat} {v : Word} := holdsWord_pushedWords (s := s.unwound [none, none])
    (vs := [wordAt s s.msp.toNat, wordAt s (s.msp + 4).toNat]) (k := k) (v := v)
    (by rw [State.unwound_mem]; exact hwf)
    (by rw [unwound_two_msp]; exact show 4 * ((2 : Nat) : Int) ≤ s.msp + 8 by omega)
  rw [unwound_two_msp] at hword
  refine ⟨holdsWord_of_mem (swapped_mem s) ?lower, holdsWord_of_mem (swapped_mem s) ?upper⟩
  case lower =>
    have hlower := hword (k := 1) rfl
    rw [show s.msp.toNat + 4 = (s.msp + 4).toNat by omega]
    rwa [show (s.msp + 8 - 4 * (((1 : Nat) : Int) + 1)).toNat = s.msp.toNat by omega] at hlower
  case upper =>
    have hupper := hword (k := 0) rfl
    rwa [show (s.msp + 8 - 4 * (((0 : Nat) : Int) + 1)).toNat = s.msp.toNat + 4 by omega]
      at hupper

end Swap

/-- Settles O29: two pops, then two pushes of the words popped. -/
theorem swapExchangesTheTopSlots : Obligations.SwapExchangesTheTopSlots := by
  unfold Obligations.SwapExchangesTheTopSlots
  intro s hwf
  have hone (h : s.msp + 8 ≤ s.cfg.stackEnd) : s.msp + 4 ≤ s.cfg.stackEnd := by omega
  refine ⟨written_of_opcode rfl rfl rfl, fun hfew => ?few, fun hslots hd htypes => ?none,
    fun hslots hd htypes hf => ?one, fun hslots hroom hd hf hf' hw hw' => ?two⟩
  case few =>
    exact onlyFaults_of_error (thenGoOn_of_error (swapBody_of_few (s := s.advance .swap) hfew))
  case none =>
    have hpop := stackPop_of_lacksMarker (s := s.advance .swap) (hone hslots) ⟨hd, htypes⟩
    exact onlyFaults_of_error (thenGoOn_of_error
      ((swapBody_of_two (s := s.advance .swap) hslots).trans (bind_of_error hpop)))
  case one =>
    obtain ⟨hnone, hswap⟩ := swapBody_of_one_marker (s := s.advance .swap) hslots hd htypes hf
    have hbody : statements .swap (s.advance .swap) = _ := thenGoOn_of_error hswap
    refine ⟨_, exec_of_error hbody, faultTaken_of_error hbody, ?_, rfl,
      hnone, rfl, rfl, fun r hr => ?_, fun _ => rfl, rfl⟩
    · rw [State.takeFault_reg, State.popped_reg, advance_ip]
    · rw [State.takeFault_reg, State.popped_reg,
        advance_reg_of_ne s _ (List.ne_of_not_mem_cons hr)]
  case two =>
    have hmsp : 0 ≤ s.msp := by omega
    have hbody : statements .swap (s.advance .swap) = .ok false (s.advance .swap).swapped :=
      thenGoOn_of_ok (swapBody_of_slots (s := s.advance .swap)
        (hasSlots_two hslots hd hf hf') (hasRoom_two hroom hw hw'))
    have hreg : ∀ r, r ≠ .pc → ((s.advance .swap).swapped.retire (opcodeAddress s) false).reg r =
        if r = .sp then wrap32 s.msp else (s.advance .swap).reg r := fun r hr => by
      rw [retire_reg_of_ne _ _ _ hr, swapped_reg, State.advance_msp]
    obtain ⟨hlower, hupper⟩ := holdsWord_swapped (s := s.advance .swap) hwf hmsp
    have hout := memoryKeptOutside_swapped (s := s.advance .swap) hwf hmsp
    rw [State.advance_msp, wordAt_advance] at hlower hupper
    rw [State.advance_msp] at hout
    refine ⟨_, exec_of_ok hbody, completed_of_ok hbody, ?next,
      holdsWord_of_mem (State.retire_mem ..) hlower, holdsWord_of_mem (State.retire_mem ..) hupper,
      memoryKeptOutside_of_mem (State.retire_mem ..) hout, ?sp, ?stack, fun r hr => ?regs, ?trace⟩
    case next => rw [hreg _ (by decide), if_neg (by decide), advance_ip]
    case sp => rw [hreg _ (by decide), if_pos rfl]
    case stack =>
      obtain ⟨hmsp, htypes, hfsz, hdepth⟩ := stackKept_swapped (s := s.advance .swap) hd
      exact ⟨(State.retire_msp ..).trans hmsp, (State.retire_stackTypes ..).trans htypes,
        (State.retire_fsz ..).trans hfsz, (State.retire_depth ..).trans hdepth⟩
    case regs =>
      simp only [List.mem_cons, List.not_mem_nil, or_false, not_or] at hr
      obtain ⟨hsp, hip, hpc⟩ := hr
      rw [hreg r hpc, if_neg hsp, advance_reg_of_ne s _ hip]
    case trace =>
      rw [State.retire_trace, State.swapped, State.setReg_trace, State.pushedWords_trace,
        State.unwound_trace, State.advance_trace]

/-! ### CALL (44_stack_and_call.md R222, R224) -/

theorem pushRegs_eq_pushWords (rs : List Reg) (s : State) :
    pushRegs rs s = pushWords (rs.map s.reg) s := by
  induction rs generalizing s with
  | nil => rfl
  | cons r rs ih =>
    have hreg : ∀ a u, pushCounted (s.reg r) s = .ok a u → u.reg = s.reg := fun a u hu =>
      funext fun r' => by
        rw [pushCounted_ok hu, State.counted_reg]
        exact State.pushedWords_reg s [s.reg r] r'
    calc pushRegs (r :: rs) s
      _ = (do pushCounted (s.reg r); pushRegs rs) s := bind_of_ok (getReg_apply r s)
      _ = (do pushCounted (s.reg r); pushWords (rs.map s.reg)) s :=
        bind_congr_rest fun a u hu => (ih u).trans (by rw [hreg a u hu])
      _ = pushWords ((r :: rs).map s.reg) s := rfl

/-- The ten words of a frame's header, in the order a call pushes them: the last is the frame size
with every slot of the header counted (44_stack_and_call.md R222, R224). -/
def State.frameWords (s : State) : List Word :=
  savedRegs.map s.reg ++ [s.reg .ip, wrap32 (s.fsz.toInt + 40)]

/-- The statements of a call after its pushes; `callBody_eq` ties them to the model. -/
def openFrame (target : Word) : Act Unit := do
  enterFrame
  mirrorSp
  writeReg .system .ip target

/-- The state after `openFrame`. -/
def State.opened (s : State) (target : Word) : State :=
  ((s.setReg .fp (wrap32 s.msp)).entered.setReg .sp (wrap32 s.msp)).setReg .ip target

@[simp] theorem State.opened_msp (s : State) (target : Word) :
    (s.opened target).msp = s.msp := by
  simp only [State.opened, State.setReg_msp, State.entered_msp]

@[simp] theorem State.opened_mem (s : State) (target : Word) :
    (s.opened target).mem = s.mem := by
  simp only [State.opened, State.setReg_mem, State.entered_mem]

@[simp] theorem State.opened_stackTypes (s : State) (target : Word) :
    (s.opened target).stackTypes = s.stackTypes := by
  simp only [State.opened, State.setReg_stackTypes, State.entered_stackTypes]

@[simp] theorem State.opened_fsz (s : State) (target : Word) :
    (s.opened target).fsz = 0 := by
  simp only [State.opened, State.setReg_fsz, State.entered_fsz]

@[simp] theorem State.opened_depth (s : State) (target : Word) :
    (s.opened target).depth = s.depth + 1 := by
  simp only [State.opened, State.setReg_depth, State.entered_depth]

@[simp] theorem State.opened_trace (s : State) (target : Word) :
    (s.opened target).trace = s.trace := by
  simp only [State.opened, State.setReg_trace, State.entered_trace]

theorem State.opened_reg (s : State) (target : Word) (r : Reg) :
    (s.opened target).reg r =
      if r = .ip then target
      else if r = .sp ∨ r = .fp then wrap32 s.msp
      else s.reg r := by
  simp only [State.opened, State.reg_setReg, State.entered_reg]
  split <;> simp [ite_or]

theorem openFrame_apply (target : Word) (s : State) :
    openFrame target s = .ok () (s.opened target) := by
  simp only [openFrame, enterFrame, Act.bind_apply, theState_apply, writeReg_system, update_apply,
    mirrorSp_apply]
  rfl

/-- The push of the frame size may be counted too, for the new frame's counter starts at 0. -/
theorem pushFrameSize_openFrame (target : Word) (s : State) :
    (do pushFrameSize; openFrame target) s =
      (do pushCounted (wrap32 (s.fsz.toInt + 4)); openFrame target) s := by
  have hsize : pushFrameSize s = stackPush (wrap32 (s.fsz.toInt + 4)) s := theState_bind _ s
  cases hp : stackPush (wrap32 (s.fsz.toInt + 4)) s with
  | ok a u =>
    have hcount : pushCounted (wrap32 (s.fsz.toInt + 4)) s = .ok () (u.counted 4) := by
      rw [pushCounted_apply, hp]
    rw [bind_of_ok (hsize.trans hp), bind_of_ok hcount, openFrame_apply, openFrame_apply]
    rfl
  | error f u =>
    have hcount : pushCounted (wrap32 (s.fsz.toInt + 4)) s = .error f u := by
      rw [pushCounted_apply, hp]
    rw [bind_of_error (hsize.trans hp), bind_of_error hcount]

/-- A call is ten counted pushes before it opens the frame. -/
theorem callBody_eq (target : Word) (s : State) :
    callBody target s = (do pushWords s.frameWords; openFrame target : Act Unit) s := by
  have hwords : s.frameWords =
      (savedRegs.map s.reg ++ [s.reg .ip]) ++ [wrap32 (s.fsz.toInt + 40)] := rfl
  have hfsz : ∀ a u, pushWords (savedRegs.map s.reg ++ [s.reg .ip]) s = .ok a u →
      wrap32 (u.fsz.toInt + 4) = wrap32 (s.fsz.toInt + 40) := fun a u hu => by
    rw [pushWords_ok hu, State.counted_fsz, State.pushedWords_fsz, wrap32_toInt_add,
      Int.add_assoc]
    rfl
  calc callBody target s
    _ = (do pushRegs savedRegs; pushCounted (s.reg .ip); pushFrameSize; openFrame target) s :=
      bind_of_ok (getReg_apply .ip s)
    _ = (do
          pushWords (savedRegs.map s.reg)
          pushCounted (s.reg .ip)
          pushFrameSize
          openFrame target) s := bind_congr_first (pushRegs_eq_pushWords savedRegs s)
    _ = (do
          pushWords (savedRegs.map s.reg ++ [s.reg .ip])
          pushFrameSize
          openFrame target) s := by
      simp only [pushWords_append, pushWords, bind_assoc, pure_bind]
    _ = (do
          pushWords (savedRegs.map s.reg ++ [s.reg .ip])
          pushCounted (wrap32 (s.fsz.toInt + 40))
          openFrame target) s :=
      bind_congr_rest fun a u hu => (pushFrameSize_openFrame target u).trans (by rw [hfsz a u hu])
    _ = (do pushWords s.frameWords; openFrame target : Act Unit) s := by
      rw [hwords, pushWords_append (savedRegs.map s.reg ++ [s.reg .ip])]
      simp only [pushWords, bind_assoc, pure_bind]

theorem advance_frameWords (s : State) (i : Instr) :
    (s.advance i).frameWords =
      savedRegs.map s.reg ++ [nextAddress i s, wrap32 (s.fsz.toInt + 40)] := by
  have hregs : savedRegs.map (s.advance i).reg = savedRegs.map s.reg :=
    List.map_congr_left fun r hr =>
      advance_reg_of_ne s i (by rintro rfl; exact absurd hr (by decide))
  rw [State.frameWords, hregs, advance_ip, State.advance_fsz]

/-- Each saved register has its place among the pushes of a call, from its offset in the frame. -/
theorem savedRegs_of_frameRegs :
    ∀ p ∈ frameRegs, ∃ k < 8, savedRegs[k]? = some p.1 ∧ p.2 + 4 * k = 36 := by
  decide

theorem frameWords_length (s : State) : s.frameWords.length = 10 := rfl

/-- The state after the first `j` pushes of a call; `callBody_of_room` and `callBody_of_full` tie it
to the model. Irreducible, so that no proof unrolls the pushes. -/
@[irreducible] def State.callPushed (s : State) (j : Nat) : State :=
  (s.pushedWords (s.frameWords.take j)).counted (4 * j)

theorem callBody_of_room {s : State} (h : s.HasRoom 10) (target : Word) :
    callBody target s = .ok () ((s.callPushed 10).opened target) := by
  rw [callBody_eq, bind_of_ok (pushWords_of_room (vs := s.frameWords) h), openFrame_apply,
    State.callPushed, List.take_of_length_le (frameWords_length s).le]
  rfl

theorem callBody_of_full {s : State} {j : Nat} (h : s.HasRoom j) (hj : j < 10)
    (hfull : s.msp - 4 * (j + 1) < s.cfg.stackStart) (target : Word) :
    callBody target s = .error (.stackOverflow (s.msp - 4 * j)) (s.callPushed j) := by
  rw [callBody_eq, bind_of_error (pushWords_of_full (vs := s.frameWords) h hj hfull),
    State.callPushed]

section CallPushed

variable {s : State} {j : Nat}

theorem frameWords_take_length (s : State) (hj : j ≤ 10) : (s.frameWords.take j).length = j :=
  List.length_take_of_le (frameWords_length s ▸ hj)

theorem callPushed_msp (s : State) (hj : j ≤ 10) : (s.callPushed j).msp = s.msp - 4 * j := by
  rw [State.callPushed, State.counted_msp, State.pushedWords_msp, frameWords_take_length s hj]

@[simp] theorem callPushed_reg (s : State) (j : Nat) (r : Reg) :
    (s.callPushed j).reg r = s.reg r := by
  rw [State.callPushed, State.counted_reg, State.pushedWords_reg]

theorem callPushed_fsz (s : State) (j : Nat) :
    (s.callPushed j).fsz = wrap32 (s.fsz.toInt + 4 * j) := by
  rw [State.callPushed, State.counted_fsz, State.pushedWords_fsz]

theorem callPushed_depth (s : State) (j : Nat) :
    (s.callPushed j).depth = s.depth := by
  rw [State.callPushed, State.counted_depth, State.pushedWords_depth]

theorem callPushed_trace (s : State) (j : Nat) :
    (s.callPushed j).trace = s.trace := by
  rw [State.callPushed, State.counted_trace, State.pushedWords_trace]

theorem callPushed_stackTypes (s : State) (hj : j ≤ 10) :
    (s.callPushed j).stackTypes = markersPushed s j := by
  rw [State.callPushed, State.counted_stackTypes, State.pushedWords_stackTypes,
    frameWords_take_length s hj]

theorem callPushed_mem (s : State) (j : Nat) :
    (s.callPushed j).mem = (s.pushedWords (s.frameWords.take j)).mem := by
  rw [State.callPushed, State.counted_mem]

theorem memoryKeptOutside_callPushed (hwf : s.mem.wf) (hj : j ≤ 10) (h : 4 * j ≤ s.msp) :
    memoryKeptOutside s (s.callPushed j) (s.msp - 4 * j).toNat (4 * j) := by
  have hlen := frameWords_take_length s hj
  have hkept := memoryKeptOutside_pushedWords hwf (vs := s.frameWords.take j)
    (by rw [hlen]; exact h)
  rw [hlen] at hkept
  intro b hb
  rw [callPushed_mem]
  exact hkept b hb

theorem holdsWord_callPushed (hwf : s.mem.wf) (hj : j ≤ 10) (h : 4 * j ≤ s.msp) {k : Nat} {v : Word}
    (hk : k < j) (hv : s.frameWords[k]? = some v) :
    holdsWord (s.callPushed j) (s.msp - 4 * (k + 1)).toNat v := by
  intro i hi
  rw [callPushed_mem]
  exact holdsWord_pushedWords hwf (by rw [frameWords_take_length s hj]; exact h)
    (by rw [List.getElem?_take_of_lt hk, hv]) i hi

end CallPushed

/-- The offset of a slot of the header, from the place of its push. -/
theorem headerSlot_eq {msp : Int} {k : Nat} (hk : k < 10) (h : 40 ≤ msp) :
    (msp - 4 * (k + 1)).toNat = (msp - 40).toNat + (36 - 4 * k) := by
  omega

theorem hasRoom_of_header {s : State} (hroom : s.cfg.stackStart ≤ s.msp - 40)
    (h : ∀ k : Nat, k < 10 → accessFault s .write .system (s.msp - 40 + 4 * k) 4 = none) :
    s.HasRoom 10 := by
  refine ⟨by omega, fun k hk => ?_⟩
  have hslot := h (9 - k) (by omega)
  rwa [show s.msp - 40 + 4 * ((9 - k : Nat) : Int) = s.msp - 4 * (k + 1) by omega] at hslot

/-- The state at the end of a call; `exec_callLit_of_room` ties it to the model. -/
def State.called (s : State) (target : Word) : State :=
  (((s.advance (.callLit target)).callPushed 10).opened target).retire (opcodeAddress s) false

theorem statements_callLit_of_room {s : State} (h : s.HasRoom 10) (target : Word) :
    statements (.callLit target) (s.advance (.callLit target)) =
      .ok false (((s.advance (.callLit target)).callPushed 10).opened target) :=
  thenGoOn_of_ok (callBody_of_room (s := s.advance _) h target)

theorem exec_callLit_of_room {s : State} (h : s.HasRoom 10) (target : Word) :
    exec (.callLit target) s = .next (s.called target) :=
  exec_of_ok (statements_callLit_of_room h target)

theorem completed_called {s : State} (h : s.HasRoom 10) (target : Word) :
    Completed s (s.called target) false :=
  completed_of_ok (statements_callLit_of_room h target)

section Called

variable {s : State} {target : Word}

theorem called_msp (s : State) (target : Word) : (s.called target).msp = s.msp - 40 := by
  rw [State.called, State.retire_msp, State.opened_msp, callPushed_msp _ le_rfl, State.advance_msp]
  rfl

theorem called_ip (s : State) (target : Word) : (s.called target).reg .ip = target := by
  rw [State.called, retire_reg_of_ne _ _ _ (by decide), State.opened_reg, if_pos rfl]

theorem called_frameReg (s : State) (target : Word) {r : Reg} (h : r = .sp ∨ r = .fp) :
    (s.called target).reg r = wrap32 (s.msp - 40) := by
  rw [State.called, retire_reg_of_ne _ _ _ (by rintro rfl; simp at h), State.opened_reg,
    if_neg (by rintro rfl; simp at h), if_pos h, callPushed_msp _ le_rfl, State.advance_msp]
  rfl

theorem regsKept_called (s : State) (target : Word) :
    regsKept s (s.called target) [.sp, .fp, .ip, .pc] := by
  intro r hr
  simp only [List.mem_cons, List.not_mem_nil, or_false, not_or] at hr
  obtain ⟨hsp, hfp, hip, hpc⟩ := hr
  rw [State.called, retire_reg_of_ne _ _ _ hpc, State.opened_reg, if_neg hip,
    if_neg (not_or.mpr ⟨hsp, hfp⟩), callPushed_reg, advance_reg_of_ne s _ hip]

theorem called_mem (s : State) (target : Word) :
    (s.called target).mem = ((s.advance (.callLit target)).callPushed 10).mem := by
  rw [State.called, State.retire_mem, State.opened_mem]

theorem memoryKeptOutside_called (hwf : s.mem.wf) (h : 40 ≤ s.msp) :
    memoryKeptOutside s (s.called target) (s.msp - 40).toNat 40 := by
  have hkept := memoryKeptOutside_callPushed (s := s.advance (.callLit target)) hwf le_rfl h
  exact memoryKeptOutside_of_mem (called_mem s target) hkept

theorem holdsWord_called (hwf : s.mem.wf) (h : 40 ≤ s.msp) {k : Nat} {v : Word} (hk : k < 10)
    (hv : (s.advance (.callLit target)).frameWords[k]? = some v) :
    holdsWord (s.called target) ((s.msp - 40).toNat + (36 - 4 * k)) v := by
  have hword := holdsWord_callPushed (s := s.advance (.callLit target)) hwf le_rfl h hk hv
  rw [← headerSlot_eq hk h]
  exact holdsWord_of_mem (called_mem s target) hword

end Called

/-- Settles O30: the ten words of the header are pushed, then the frame is opened. -/
theorem callBuildsTheFrame : Obligations.CallBuildsTheFrame := by
  unfold Obligations.CallBuildsTheFrame
  intro target s hwf
  refine ⟨written_of_opcode rfl rfl rfl, fun hroom hslots => ?_⟩
  have hmsp : 40 ≤ s.msp := by omega
  have hcan := hasRoom_of_header hroom hslots
  have hwords := advance_frameWords s (.callLit target)
  refine ⟨s.called target, exec_callLit_of_room hcan target, completed_called hcan target,
    called_ip s target, called_msp s target, called_frameReg s target (.inl rfl),
    called_frameReg s target (.inr rfl), by simp [State.called], ?depth, ?types,
    ?size, ?next, fun p hp => ?saved, memoryKeptOutside_called hwf hmsp, regsKept_called s target, ?trace⟩
  case depth =>
    rw [State.called, State.retire_depth, State.opened_depth, callPushed_depth,
      State.advance_depth]
  case types =>
    rw [State.called, State.retire_stackTypes, State.opened_stackTypes,
      callPushed_stackTypes _ le_rfl]
    rfl
  case size => exact holdsWord_called hwf hmsp (k := 9) (by decide) (by rw [hwords]; rfl)
  case next => exact holdsWord_called hwf hmsp (k := 8) (by decide) (by rw [hwords]; rfl)
  case trace =>
    rw [State.called, State.retire_trace, State.opened_trace, callPushed_trace,
      State.advance_trace]
  case saved =>
    obtain ⟨k, hk, hreg, hoff⟩ := savedRegs_of_frameRegs p hp
    rw [show p.2 = 36 - 4 * k by omega]
    refine holdsWord_called hwf hmsp (by omega) ?_
    rw [hwords, List.getElem?_append_left (by rw [List.length_map]; exact hk),
      List.getElem?_map, hreg]
    rfl

/-- Settles O31: of the ten pushes of a call, the first that finds no room faults. -/
theorem callOverflowKeepsItsPushes : Obligations.CallOverflowKeepsItsPushes := by
  unfold Obligations.CallOverflowKeepsItsPushes
  intro target s j hwf hj hroom hfull hslots
  have hle : j ≤ 10 := hj.le
  have hmsp : 4 * j ≤ s.msp := by omega
  have hbody : statements (.callLit target) (s.advance (.callLit target)) =
      .error (.stackOverflow (s.msp - 4 * j)) ((s.advance (.callLit target)).callPushed j) :=
    thenGoOn_of_error (callBody_of_full (s := s.advance _) ⟨hroom, hslots⟩ hj hfull target)
  have hout := memoryKeptOutside_callPushed (s := s.advance (.callLit target)) hwf hle hmsp
  rw [State.advance_msp] at hout
  refine ⟨_, exec_of_error hbody, faultTaken_of_error hbody, ?ip, ?msp,
    ?fsz, ?depth, ?types, fun k v hk hv => ?words,
    memoryKeptOutside_of_mem (State.takeFault_mem ..) hout, fun r hr => ?regs, ?trace⟩
  case ip => rw [State.takeFault_reg, callPushed_reg, advance_ip]
  case msp => rw [State.takeFault_msp, callPushed_msp _ hle, State.advance_msp]
  case fsz => rw [State.takeFault_fsz, callPushed_fsz, State.advance_fsz]
  case depth => rw [State.takeFault_depth, callPushed_depth, State.advance_depth]
  case types =>
    rw [State.takeFault_stackTypes, callPushed_stackTypes _ hle]
    rfl
  case words =>
    have hword : (s.advance (.callLit target)).frameWords[k]? = some v := by
      obtain ⟨hlen, -⟩ := List.getElem?_eq_some_iff.mp hv
      rw [advance_frameWords, List.append_cons, List.getElem?_append_left hlen, hv]
    have hheld := holdsWord_callPushed (s := s.advance (.callLit target)) hwf hle hmsp hk hword
    rw [State.advance_msp] at hheld
    exact holdsWord_of_mem (State.takeFault_mem ..) hheld
  case regs =>
    rw [State.takeFault_reg, callPushed_reg, advance_reg_of_ne s _ (List.ne_of_not_mem_cons hr)]
  case trace => rw [State.takeFault_trace, callPushed_trace, State.advance_trace]

/-! ### RET (44_stack_and_call.md R225) -/

/-- The statements of RET once the count of arguments is popped; `unwindFrame_eq` ties them to the
model. -/
def closeFrame (fp0 size n : Word) : Act Unit := do
  require (decide (0 ≤ n.toInt)) (.invalidArgumentCount n.toInt)
  discardSlots n.toInt.toNat
  writeReg .system .fp (wrap32 (fp0.toInt + size.toInt))
  update (fun s => s.returned size n)
  mirrorSp

/-- The statements of RET after the drop to FP; `retBody_of_call` ties them to the model. -/
def unwindFrame (fp0 : Word) : Act Unit := do
  let size ← stackPop
  popRegs (.ip :: savedRegs.reverse)
  let n ← stackPop
  closeFrame fp0 size n

theorem retBody_of_no_call {s : State} (h : s.depth = 0) :
    retBody s = .error .unmatchedReturn s := by
  rw [retBody, theState_bind, require_bind, if_neg (by simpa using h)]

theorem retBody_of_call {s : State} (h : s.depth ≠ 0) :
    retBody s = (do stackDropTo (s.reg .fp).toInt; unwindFrame (s.reg .fp) : Act Unit) s := by
  rw [retBody, theState_bind, require_bind, if_pos (decide_eq_true h),
    bind_of_ok (getReg_apply _ _)]
  rfl

theorem stackDropTo_of_canDropTo {s : State} {a : Int} (h : CanDropTo s a) :
    stackDropTo a s = .ok () (s.droppedTo a) := by
  obtain ⟨hlow, hhigh, hslot, hmark⟩ := h
  rw [stackDropTo_apply, if_neg (by omega), if_neg (by omega), if_neg]
  rintro ⟨hd, hbad⟩
  have := hmark hd
  omega

/-- A RET whose drop faults only faults. -/
theorem onlyFaults_ret_of_drop {s : State} {f : Fault} (hd : s.depth ≠ 0)
    (h : stackDropTo (s.reg .fp).toInt (s.advance .ret) = .error f (s.advance .ret)) :
    OnlyFaults .ret s f := by
  have hfp : (s.advance .ret).reg .fp = s.reg .fp := advance_reg_of_ne s _ (by decide)
  refine onlyFaults_of_error (thenGoOn_of_error ?_)
  rw [retBody_of_call (s := s.advance .ret) hd, hfp, bind_of_error h]

/-- Settles O33: the check of the depth, then those of the drop in their order. -/
theorem retFaultsBeforePopping : Obligations.RetFaultsBeforePopping := by
  unfold Obligations.RetFaultsBeforePopping
  intro s f
  have hdrop := stackDropTo_apply f (s.advance .ret)
  rw [State.advance_cfg, State.advance_msp, State.advance_stackTypes] at hdrop
  split
  case isTrue hd =>
    exact onlyFaults_of_error (thenGoOn_of_error (retBody_of_no_call (s := s.advance .ret) hd))
  case isFalse hd =>
    split
    case isTrue hlow => exact onlyFaults_ret_of_drop hd (hdrop.trans (if_pos hlow))
    case isFalse hlow =>
      rw [if_neg hlow] at hdrop
      split
      case isTrue hoff => exact onlyFaults_ret_of_drop hd (hdrop.trans (if_pos hoff))
      case isFalse hoff =>
        rw [if_neg hoff] at hdrop
        exact fun hdebug hmark => onlyFaults_ret_of_drop hd (hdrop.trans (if_pos ⟨hdebug, hmark⟩))

/-- The slots of a frame from FP up, by the registers they restore: the frame size, the saved
registers, and the count of arguments (44_stack_and_call.md R222). -/
def headerSlots : List (Option Reg) :=
  none :: (.ip :: savedRegs.reverse).map some ++ [none]

/-- A frame with `n` arguments above it. -/
def frameSlots (n : Nat) : List (Option Reg) := headerSlots ++ List.replicate n none

theorem frameSlots_length (n : Nat) : (frameSlots n).length = 11 + n := by
  rw [frameSlots, List.length_append, List.length_replicate]
  rfl

/-- RET pops the header into its registers, with the frame size and the count of arguments its first
and its last word. -/
theorem unwindFrame_eq (fp0 : Word) {s : State} (h : 0 ≤ s.msp) :
    unwindFrame fp0 s = (do
      popInto headerSlots
      closeFrame fp0 (wordAt s s.msp.toNat) (wordAt s (s.msp.toNat + 40)) : Act Unit) s := by
  set size := wordAt s s.msp.toNat
  set count := wordAt s (s.msp.toNat + 40)
  have hcount : ∀ a t, popInto (none :: (.ip :: savedRegs.reverse).map some) s = .ok a t →
      wordAt t t.msp.toNat = count := fun a t ht => by
    rw [popInto_ok ht, State.unwound_msp]
    rw [show (s.msp + 4 * ((none :: (.ip :: savedRegs.reverse).map some).length : Int)).toNat =
      s.msp.toNat + 40 from show (s.msp + 4 * ((10 : Nat) : Int)).toNat = _ by omega]
    exact wordAt_congr fun b _ _ => by rw [State.unwound_mem]
  calc unwindFrame fp0 s
    _ = (do
          popInto [none]
          popRegs (.ip :: savedRegs.reverse)
          let n ← stackPop
          closeFrame fp0 size n : Act Unit) s := stackPop_bind _ s
    _ = (do
          popInto (none :: (.ip :: savedRegs.reverse).map some)
          let n ← stackPop
          closeFrame fp0 size n : Act Unit) s := by
      rw [popRegs_eq_popInto, ← bind_assoc, ← popInto_append, List.singleton_append]
    _ = (do
          popInto (none :: (.ip :: savedRegs.reverse).map some)
          popInto [none]
          closeFrame fp0 size count : Act Unit) s :=
      bind_congr_rest fun a t ht => (stackPop_bind _ t).trans (by rw [hcount a t ht])
    _ = (do popInto headerSlots; closeFrame fp0 size count : Act Unit) s := by
      rw [headerSlots, popInto_append, bind_assoc]

theorem closeFrame_of_negative {fp0 size n : Word} (h : n.toInt < 0) (s : State) :
    closeFrame fp0 size n s = .error (.invalidArgumentCount n.toInt) s := by
  rw [closeFrame, require_bind, if_neg (by simpa using h)]

/-- The state after the statements of RET that follow the pops. -/
def State.closed (s : State) (fp0 size n : Word) : State :=
  ((s.setReg .fp (wrap32 (fp0.toInt + size.toInt))).returned size n).setReg .sp (wrap32 s.msp)

@[simp] theorem State.closed_msp (s : State) (fp0 size n : Word) :
    (s.closed fp0 size n).msp = s.msp := by
  rw [State.closed, State.setReg_msp, State.returned_msp, State.setReg_msp]

@[simp] theorem State.closed_mem (s : State) (fp0 size n : Word) :
    (s.closed fp0 size n).mem = s.mem := by
  rw [State.closed, State.setReg_mem, State.returned_mem, State.setReg_mem]

@[simp] theorem State.closed_stackTypes (s : State) (fp0 size n : Word) :
    (s.closed fp0 size n).stackTypes = s.stackTypes := by
  rw [State.closed, State.setReg_stackTypes, State.returned_stackTypes, State.setReg_stackTypes]

@[simp] theorem State.closed_fsz (s : State) (fp0 size n : Word) :
    (s.closed fp0 size n).fsz = wrap32 (size.toInt - 44 - 4 * n.toInt) := by
  rw [State.closed, State.setReg_fsz, State.returned_fsz]

@[simp] theorem State.closed_depth (s : State) (fp0 size n : Word) :
    (s.closed fp0 size n).depth = s.depth - 1 := by
  rw [State.closed, State.setReg_depth, State.returned_depth, State.setReg_depth]

@[simp] theorem State.closed_trace (s : State) (fp0 size n : Word) :
    (s.closed fp0 size n).trace = s.trace := by
  rw [State.closed, State.setReg_trace, State.returned_trace, State.setReg_trace]

theorem State.closed_reg (s : State) (fp0 size n : Word) (r : Reg) :
    (s.closed fp0 size n).reg r =
      if r = .sp then wrap32 s.msp
      else if r = .fp then wrap32 (fp0.toInt + size.toInt)
      else s.reg r := by
  simp only [State.closed, State.reg_setReg, State.returned_reg]

theorem closeFrame_of_ok {fp0 size n : Word} {s t : State} {a : Unit} (h : 0 ≤ n.toInt)
    (hpop : popInto (List.replicate n.toInt.toNat none) s = .ok a t) :
    closeFrame fp0 size n s = .ok () (t.closed fp0 size n) := by
  rw [closeFrame, require_bind, if_pos (decide_eq_true h), discardSlots_eq_popInto, bind_of_ok hpop,
    bind_of_ok (writeReg_system _ _ _), bind_of_ok (update_apply _ _), mirrorSp_apply]
  rfl

theorem closeFrame_of_error {fp0 size n : Word} {s t : State} {f : Fault} (h : 0 ≤ n.toInt)
    (hpop : popInto (List.replicate n.toInt.toNat none) s = .error f t) :
    closeFrame fp0 size n s = .error f t := by
  rw [closeFrame, require_bind, if_pos (decide_eq_true h), discardSlots_eq_popInto,
    bind_of_error hpop]

theorem State.HasSlots.mono {s : State} {m n : Nat} (h : s.HasSlots n) (hm : m ≤ n) :
    s.HasSlots m := by
  obtain ⟨hend, hmark, hslots⟩ := h
  exact ⟨by omega, fun hd => hm.trans (hmark hd), fun k hk => hslots k (by omega)⟩

/-- The state after the drop to FP and `m` pops of the frame there, of `n` arguments;
`statements_ret` ties it to the model. -/
def State.retPopped (s : State) (n m : Nat) : State :=
  ((s.advance .ret).droppedTo (s.reg .fp).toInt).unwound ((frameSlots n).take m)

/-- The frame size that RET reads at FP. -/
def State.frameSize (s : State) : Word := wordAt s (s.reg .fp).toInt.toNat

/-- The count of arguments that RET reads above the saved registers. -/
def State.argCount (s : State) : Word := wordAt s ((s.reg .fp).toInt.toNat + 40)

section Ret

variable {s : State} {f : Fault} {n m : Nat}

theorem statements_ret (hd : s.depth ≠ 0) (hdrop : CanDropTo s (s.reg .fp).toInt) :
    statements .ret (s.advance .ret) =
      thenGoOn (do popInto headerSlots; closeFrame (s.reg .fp) s.frameSize s.argCount : Act Unit)
        (s.retPopped n 0) := by
  have hfp : (s.advance .ret).reg .fp = s.reg .fp := advance_reg_of_ne s _ (by decide)
  have hpos : 0 ≤ (s.reg .fp).toInt := (Int.natCast_nonneg _).trans hdrop.1
  have hbody : retBody (s.advance .ret) =
      (do popInto headerSlots; closeFrame (s.reg .fp) s.frameSize s.argCount : Act Unit)
        (s.retPopped n 0) := by
    rw [retBody_of_call (s := s.advance .ret) hd, hfp,
      bind_of_ok (stackDropTo_of_canDropTo (s := s.advance .ret) hdrop)]
    exact unwindFrame_eq (s := (s.advance .ret).droppedTo (s.reg .fp).toInt) _ hpos
  rw [statements, thenGoOn_apply, thenGoOn_apply, hbody]

theorem retPopped_header (s : State) (n : Nat) (h : m ≤ 11) :
    s.retPopped n m = (s.retPopped n 0).unwound (headerSlots.take m) := by
  rw [State.retPopped, frameSlots, List.take_append_of_le_length h]
  rfl

theorem retPopped_arguments (s : State) (n k : Nat) :
    s.retPopped n (11 + k) = (s.retPopped n 11).unwound ((List.replicate n none).take k) := by
  have hlen : headerSlots.length = 11 := rfl
  rw [State.retPopped, State.retPopped, ← State.unwound_append, frameSlots, ← hlen,
    List.take_length_add_append, List.take_left]

theorem popInto_header (h : (s.retPopped n 0).HasSlots 11) :
    popInto headerSlots (s.retPopped n 0) = .ok () (s.retPopped n 11) := by
  rw [popInto_of_slots (os := headerSlots) h, retPopped_header s n le_rfl]
  rfl

theorem statements_ret_of_slots (hd : s.depth ≠ 0) (hdrop : CanDropTo s (s.reg .fp).toInt)
    (hn : s.argCount.toInt = n) (h : (s.retPopped n 0).HasSlots (11 + n)) :
    statements .ret (s.advance .ret) =
      .ok false ((s.retPopped n (11 + n)).closed (s.reg .fp) s.frameSize s.argCount) := by
  have hheader := popInto_header (h.mono (Nat.le_add_right 11 n))
  have hargs : popInto (List.replicate n none) (s.retPopped n 11) =
      .ok () (s.retPopped n (11 + n)) := by
    rw [retPopped_arguments, List.take_of_length_le (by rw [List.length_replicate])]
    refine popInto_of_slots ?_
    rw [List.length_replicate, retPopped_header s n le_rfl]
    exact State.HasSlots.unwound (os := headerSlots) h
  rw [statements_ret hd hdrop]
  refine thenGoOn_of_ok ((bind_of_ok hheader).trans (closeFrame_of_ok (a := ()) (by omega) ?_))
  rwa [hn, Int.toNat_natCast]

theorem statements_ret_of_negative (hd : s.depth ≠ 0) (hdrop : CanDropTo s (s.reg .fp).toInt)
    (hn : s.argCount.toInt < 0) (h : (s.retPopped n 0).HasSlots 11) :
    statements .ret (s.advance .ret) =
      .error (.invalidArgumentCount s.argCount.toInt) (s.retPopped n 11) := by
  rw [statements_ret hd hdrop]
  exact thenGoOn_of_error ((bind_of_ok (popInto_header h)).trans (closeFrame_of_negative hn _))

/-- A pop of RET that faults, be it of the header or of an argument. -/
theorem statements_ret_of_pop (hd : s.depth ≠ 0) (hdrop : CanDropTo s (s.reg .fp).toInt)
    (hn : n = s.argCount.toInt.toNat) (hm : m < 11 ∨ (m : Int) < 11 + s.argCount.toInt)
    (h : (s.retPopped n 0).HasSlots m)
    (hf : stackPop (s.retPopped n m) = .error f (s.retPopped n m)) :
    statements .ret (s.advance .ret) = .error f (s.retPopped n m) := by
  rw [statements_ret (n := n) hd hdrop]
  refine thenGoOn_of_error ?_
  by_cases hheader : m < 11
  · rw [retPopped_header s n hheader.le] at hf ⊢
    exact bind_of_error (popInto_of_error h hheader hf)
  · obtain ⟨k, rfl⟩ := Nat.exists_eq_add_of_le (not_lt.mp hheader)
    have hk : k < (List.replicate n (none : Option Reg)).length := by
      rw [List.length_replicate]
      omega
    have hslots : (s.retPopped n 11).HasSlots k := by
      rw [retPopped_header s n le_rfl]
      exact State.HasSlots.unwound (os := headerSlots) h
    rw [bind_of_ok (popInto_header (h.mono (Nat.le_add_right 11 k)))]
    rw [retPopped_arguments] at hf ⊢
    refine closeFrame_of_error (by omega) ?_
    rw [← hn]
    exact popInto_of_error hslots hk hf

/-! ### What RET's pops leave -/

theorem retPopped_msp (h : m ≤ 11 + n) : (s.retPopped n m).msp = (s.reg .fp).toInt + 4 * m := by
  rw [State.retPopped, State.unwound_msp, State.droppedTo_msp,
    List.length_take_of_le (by rw [frameSlots_length]; exact h)]

theorem retPopped_stackTypes (h : m ≤ 11 + n) :
    (s.retPopped n m).stackTypes =
      markersPopped s ((dropCount s.msp (s.reg .fp).toInt).toNat + m) := by
  rw [State.retPopped, State.unwound_stackTypes, markersPopped_droppedTo,
    List.length_take_of_le (by rw [frameSlots_length]; exact h)]
  rfl

theorem retPopped_mem (s : State) (n m : Nat) : (s.retPopped n m).mem = s.mem := by
  rw [State.retPopped, State.unwound_mem, State.droppedTo_mem, State.advance_mem]

theorem retPopped_fsz (s : State) (n m : Nat) : (s.retPopped n m).fsz = s.fsz := by
  rw [State.retPopped, State.unwound_fsz, State.droppedTo_fsz, State.advance_fsz]

theorem retPopped_depth (s : State) (n m : Nat) : (s.retPopped n m).depth = s.depth := by
  rw [State.retPopped, State.unwound_depth, State.droppedTo_depth, State.advance_depth]

theorem retPopped_trace (s : State) (n m : Nat) : (s.retPopped n m).trace = s.trace := by
  rw [State.retPopped, State.unwound_trace, State.droppedTo_trace, State.advance_trace]

theorem retPopped_hostKept (s : State) (n m : Nat) : hostKept s (s.retPopped n m) :=
  unwound_hostKept ((s.advance .ret).droppedTo _) _

/-- The place of a register among the slots of the header is its only one. -/
theorem idxOf_headerSlots :
    ∀ i < 11, ∀ o ∈ headerSlots[i]?, o ≠ none → headerSlots.idxOf o = i := by
  decide

theorem frameSlots_getElem? {i : Nat} {r : Reg} :
    (frameSlots n)[i]? = some (some r) ↔ headerSlots[i]? = some (some r) := by
  have hlen : headerSlots.length = 11 := rfl
  by_cases hi : i < 11
  · rw [frameSlots, List.getElem?_append_left (by omega)]
  · rw [frameSlots, List.getElem?_append_right (by omega), List.getElem?_replicate,
      List.getElem?_eq_none (l := headerSlots) (by omega)]
    split <;> simp

theorem idxOf_of_headerSlots {i : Nat} {r : Reg} (h : headerSlots[i]? = some (some r)) :
    headerSlots.idxOf (some r) = i := by
  have hlen : headerSlots.length = 11 := rfl
  obtain ⟨hi, -⟩ := List.getElem?_eq_some_iff.mp h
  exact idxOf_headerSlots i (by omega) _ h nofun

/-- A saved register is restored exactly if RET has reached its slot. -/
theorem retPopped_reg_of_slot {i : Nat} {r : Reg} (hfp : 0 ≤ (s.reg .fp).toInt)
    (hi : headerSlots[i]? = some (some r)) :
    (s.retPopped n m).reg r =
      if i < m then wordAt s ((s.reg .fp).toInt.toNat + 4 * i) else (s.advance .ret).reg r := by
  have hone : ∀ j, ((frameSlots n).take m)[j]? = some (some r) → j = i ∧ j < m := fun j hj => by
    rw [List.getElem?_take] at hj
    split at hj
    case isTrue hm =>
      exact ⟨(idxOf_of_headerSlots (frameSlots_getElem?.mp hj)).symm.trans
        (idxOf_of_headerSlots hi), hm⟩
    case isFalse => cases hj
  split
  case isTrue hm =>
    exact unwound_reg_of_getElem? (s := (s.advance .ret).droppedTo (s.reg .fp).toInt) hfp
      (by rw [List.getElem?_take_of_lt hm, frameSlots_getElem?, hi]) fun j hj => (hone j hj).1
  case isFalse hm =>
    refine kept_unwound (p := .reg r) nofun (fun r' e hmem => ?_)
      ((s.advance .ret).droppedTo (s.reg .fp).toInt)
    cases e
    obtain ⟨j, hj⟩ := List.mem_iff_getElem?.mp hmem
    obtain ⟨rfl, hlt⟩ := hone j hj
    exact hm hlt

theorem not_mem_frameSlots {r : Reg} (hr : r ∉ .ip :: savedRegs) : some r ∉ frameSlots n := by
  simpa [frameSlots, headerSlots] using hr

theorem retPopped_reg_of_not_mem (n m : Nat) {r : Reg} (hr : r ∉ .ip :: savedRegs) :
    (s.retPopped n m).reg r = s.reg r := by
  have hkept : (s.retPopped n m).reg r = (s.advance .ret).reg r :=
    kept_unwound (p := .reg r) nofun
      (fun r' e hmem => by cases e; exact not_mem_frameSlots hr (List.mem_of_mem_take hmem))
      ((s.advance .ret).droppedTo (s.reg .fp).toInt)
  rw [hkept, advance_reg_of_ne s _ (List.ne_of_not_mem_cons hr)]

/-- Each saved register's slot, from its offset in the frame. -/
theorem headerSlots_of_frameRegs :
    ∀ p ∈ frameRegs, ∃ i < 11, headerSlots[i]? = some (some p.1) ∧ p.2 = 4 * i ∧ p.1 ≠ .ip := by
  decide

theorem frameRegs_bounds :
    ∀ p ∈ frameRegs, p.2 + 4 ≤ 40 ∧ p.1 ≠ .pc ∧ p.1 ≠ .sp ∧ p.1 ≠ .fp := by
  decide

theorem retPopped_frameReg (hfp : 0 ≤ (s.reg .fp).toInt) {p : Reg × Nat} (hp : p ∈ frameRegs) :
    (s.retPopped n m).reg p.1 =
      if p.2 + 4 ≤ 4 * m then wordAt s ((s.reg .fp).toInt.toNat + p.2) else s.reg p.1 := by
  obtain ⟨i, -, hi, hoff, hne⟩ := headerSlots_of_frameRegs p hp
  rw [retPopped_reg_of_slot hfp hi, hoff, advance_reg_of_ne s _ hne]
  exact if_congr (by omega) rfl rfl

theorem retPopped_ip (hfp : 0 ≤ (s.reg .fp).toInt) :
    (s.retPopped n m).reg .ip =
      if 2 ≤ m then wordAt s ((s.reg .fp).toInt.toNat + 4) else nextAddress .ret s := by
  rw [retPopped_reg_of_slot (i := 1) hfp rfl, advance_ip]
  exact if_congr Iff.rfl rfl rfl

/-- The slots of the frame at FP, where its words may be read and the markers match. -/
theorem hasSlots_retPopped (hend : (s.reg .fp).toInt + 4 * m ≤ s.cfg.stackEnd)
    (hread : ∀ k : Nat, k < m →
      accessFault s .read .system ((s.reg .fp).toInt + 4 * k) 4 = none)
    (hmark : s.cfg.debugStackTypes = true →
      0 ≤ dropCount s.msp (s.reg .fp).toInt ∧
        dropCount s.msp (s.reg .fp).toInt + m ≤ s.stackTypes.length) :
    (s.retPopped n 0).HasSlots m := by
  refine ⟨hend, fun (hd : s.cfg.debugStackTypes = true) => ?_, hread⟩
  have htypes : (s.retPopped n 0).stackTypes.length =
      s.stackTypes.length - (dropCount s.msp (s.reg .fp).toInt).toNat := by
    rw [retPopped_stackTypes (Nat.zero_le _), markersPopped, if_pos hd, List.length_take]
    omega
  have := hmark hd
  omega


theorem canDropTo_fp (hlow : (s.cfg.stackStart : Int) ≤ (s.reg .fp).toInt)
    (hslot : (s.cfg.stackEnd - (s.reg .fp).toInt) % 4 = 0)
    (hend : (s.reg .fp).toInt + 4 * m ≤ s.cfg.stackEnd)
    (hmark : s.cfg.debugStackTypes = true →
      0 ≤ dropCount s.msp (s.reg .fp).toInt ∧
        dropCount s.msp (s.reg .fp).toInt + m ≤ s.stackTypes.length) :
    CanDropTo s (s.reg .fp).toInt := by
  refine ⟨hlow, by omega, hslot, fun hd => ?_⟩
  obtain ⟨hpos, hle⟩ := hmark hd
  exact ⟨hpos, by omega⟩


end Ret

/-! ### How RET ends -/

/-- Settles O32: all eleven words of the header and the arguments are popped, then FP, the counter
and the depth go back. -/
theorem retRestoresTheCaller : Obligations.RetRestoresTheCaller := by
  unfold Obligations.RetRestoresTheCaller
  refine ⟨written_of_opcode rfl rfl rfl, ?_⟩
  intro s n f a hd hlow hslot hend hread hmark hn
  have hfp : 0 ≤ f := (Int.natCast_nonneg _).trans hlow
  have hend' : f + 4 * ((11 + n : Nat) : Int) ≤ s.cfg.stackEnd := by omega
  have hmark' : s.cfg.debugStackTypes = true →
      0 ≤ dropCount s.msp f ∧ dropCount s.msp f + ((11 + n : Nat) : Int) ≤ s.stackTypes.length :=
    fun hdebug => by
      have := hmark hdebug
      omega
  have hbody := statements_ret_of_slots hd (canDropTo_fp hlow hslot hend' hmark') hn
    (hasSlots_retPopped hend' hread hmark')
  have hmsp : (s.retPopped n (11 + n)).msp = f + 44 + 4 * n := by
    rw [retPopped_msp le_rfl]
    omega
  have hreg : ∀ r, r ≠ .pc → r ≠ .sp → r ≠ .fp →
      (((s.retPopped n (11 + n)).closed (s.reg .fp) s.frameSize s.argCount).retire
        (opcodeAddress s) false).reg r = (s.retPopped n (11 + n)).reg r := fun r hpc hsp hfp => by
    rw [retire_reg_of_ne _ _ _ hpc, State.closed_reg, if_neg hsp, if_neg hfp]
  refine ⟨_, exec_of_ok hbody, completed_of_ok hbody, ?ip, fun p hp => ?saved, ?msp, ?sp, ?fp, ?fsz,
    ?depth, ?types, ?ac, ?fl, ?test, ?mem, ?trace⟩
  case ip =>
    rw [hreg _ (by decide) (by decide) (by decide), retPopped_ip hfp, if_pos (by omega)]
  case saved =>
    obtain ⟨hoff, hpc, hsp, hfp'⟩ := frameRegs_bounds p hp
    rw [hreg _ hpc hsp hfp', retPopped_frameReg hfp hp, if_pos (by omega)]
  case msp => rw [State.retire_msp, State.closed_msp, hmsp]
  case sp => rw [retire_reg_of_ne _ _ _ (by decide), State.closed_reg, if_pos rfl, hmsp]
  case fp =>
    rw [retire_reg_of_ne _ _ _ (by decide), State.closed_reg, if_neg (by decide), if_pos rfl]
    rfl
  case fsz =>
    rw [State.retire_fsz, State.closed_fsz, show s.argCount.toInt = n from hn]
    rfl
  case depth => rw [State.retire_depth, State.closed_depth, retPopped_depth]
  case types =>
    rw [State.retire_stackTypes, State.closed_stackTypes, retPopped_stackTypes le_rfl,
      Nat.add_assoc]
  case ac | fl | test =>
    rw [hreg _ (by decide) (by decide) (by decide), retPopped_reg_of_not_mem _ _ (by decide)]
  case mem => exact fun b => by rw [State.retire_mem, State.closed_mem, retPopped_mem]
  case trace => rw [State.retire_trace, State.closed_trace, retPopped_trace]

/-- Settles O34: the pop that faults is the first past the stack's end, or the count popped is
negative. -/
theorem retFaultsPartWay : Obligations.RetFaultsPartWay := by
  unfold Obligations.RetFaultsPartWay
  intro s m f a n faultsAfter hd hlow hslot hread hmark
  have hfp : 0 ≤ f := (Int.natCast_nonneg _).trans hlow
  have hafter : ∀ fault N, m ≤ 11 + N →
      statements .ret (s.advance .ret) = .error fault (s.retPopped N m) → faultsAfter fault := by
    intro fault N hm hbody
    refine ⟨_, exec_of_error hbody, faultTaken_of_error hbody, retPopped_msp hm, retPopped_ip hfp,
      fun p hp => retPopped_frameReg hfp hp, fun r hr => retPopped_reg_of_not_mem N m hr,
      retPopped_fsz s N m, retPopped_depth s N m, retPopped_stackTypes hm, fun b => ?_,
      retPopped_trace s N m⟩
    rw [State.takeFault_mem, retPopped_mem]
  refine ⟨fun hend hm _ => ?_, fun hm hend hn => ?_⟩
  · have hdrop := canDropTo_fp hlow hslot hend.le hmark
    have hle : m ≤ 11 + n.toNat := by omega
    have hmsp : (s.retPopped n.toNat m).msp = s.cfg.stackEnd := (retPopped_msp hle).trans hend
    obtain ⟨hcfg, -⟩ := retPopped_hostKept s n.toNat m
    have hpop := stackPop_of_empty (s := s.retPopped n.toNat m) (by rw [hmsp, hcfg]; omega)
    rw [hmsp] at hpop
    exact hafter _ _ hle
      (statements_ret_of_pop hd hdrop rfl hm (hasSlots_retPopped hend.le hread hmark) hpop)
  · subst hm
    have hend : f + 4 * ((11 : Nat) : Int) ≤ s.cfg.stackEnd := hend
    exact hafter _ 0 le_rfl (statements_ret_of_negative hd (canDropTo_fp hlow hslot hend hmark) hn
      (hasSlots_retPopped hend hread hmark))

/-! ### A call and its return (44_stack_and_call.md R230) -/

theorem frameRegs_of_savedRegs : ∀ r ∈ savedRegs, ∃ p ∈ frameRegs, p.1 = r := by decide

/-- A value in the range of a signed word is kept (00_scope.md R10). -/
theorem wrap32_toInt {v : Int} (hlow : 0 ≤ v) (hhigh : v ≤ 2147483647) : (wrap32 v).toInt = v :=
  BitVec.toInt_ofInt_eq_self (by decide) (by omega) (by omega)

/-- Settles O35: the frame the call built is the one the return takes down. -/
theorem returnUndoesItsCall : Obligations.ReturnUndoesItsCall := by
  unfold Obligations.ReturnUndoesItsCall
  intro target s t u n hwf hstack htop hroom hwrite hread hcount hend hcall hhost hdepth hfp hmem
    hmark
  obtain ⟨-, hbuilds⟩ := callBuildsTheFrame target s hwf
  obtain ⟨t', hcall', ⟨-, -, -, hhost'⟩, -, hmsp, -, hfpt, -, hdeptht, -, hsize, hnext, hsaved,
    hout, -, -⟩ := hbuilds hroom hwrite
  obtain rfl : t = t' := Host.Outcome.next.inj (hcall.symm.trans hcall')
  obtain ⟨-, -, hslot⟩ := hstack
  have hhostu : hostKept s u := Part.Kept.trans (p := .host) hhost' hhost
  have ⟨hcfg, _⟩ := hhostu
  have hf : (u.reg .fp).toInt = s.msp - 40 := by
    rw [hfp, hfpt, wrap32_toInt (by omega) (by omega)]
  have hword : ∀ off ≤ 40, wordAt u ((s.msp - 40).toNat + off) =
      wordAt t ((s.msp - 40).toNat + off) := fun off hoff =>
    wordAt_congr fun b hlow hhigh => hmem b (by omega) (by omega)
  have hcount' : wordAt u ((s.msp - 40).toNat + 40) = wordAt s s.msp.toNat := by
    rw [hword 40 le_rfl, show (s.msp - 40).toNat + 40 = s.msp.toNat by omega]
    exact wordAt_congr fun b hlow _ => hout b (.inr (by omega))
  have hsize' : wordAt u (s.msp - 40).toNat = wrap32 (s.fsz.toInt + 40) :=
    (hword 0 (by decide)).trans (wordAt_of_holdsWord hsize)
  have hret := retRestoresTheCaller.2 u n
  simp only [hf, hcount', hsize', hcfg, accessFault_congr hhostu, hdepth, hdeptht] at hret
  obtain ⟨v, hv, hdone, hip, hregs, hvmsp, hsp, hvfp, hfsz, hvdepth, -, hac, -, -, hvmem, -⟩ :=
    hret (Nat.succ_ne_zero _) hroom (by omega) (by omega) hread
      (fun hd => by rw [← hmsp]; exact hmark hd) hcount
  have hvfp : v.reg .fp = wrap32 (s.msp + s.fsz.toInt) := by
    rw [hvfp, Int.add_comm, wrap32_toInt_add]
    congr 1
    omega
  refine ⟨v, hv, hdone, ?ip, fun r hr => ?saved, by omega, ?sp, ?fsz, hvfp,
    fun h => hvfp.trans h.symm, fun h => ?outermost, hvdepth, hac, hvmem⟩
  case ip => rw [hip, hword 4 (by decide), wordAt_of_holdsWord hnext]
  case saved =>
    obtain ⟨p, hp, rfl⟩ := frameRegs_of_savedRegs r hr
    obtain ⟨hoff, -⟩ := frameRegs_bounds p hp
    rw [hregs p hp, hword p.2 (by omega), wordAt_of_holdsWord (hsaved p hp)]
  case sp =>
    rw [hsp]
    congr 1
    omega
  case fsz =>
    rw [hfsz, Int.sub_sub, Int.sub_eq_add_neg, wrap32_toInt_add]
    congr 1
    omega
  case outermost => rw [hvfp, h, wrap32_toInt (by omega) (by omega)]

end Sys2Proof.Machine
end

section
/-! PROOFS. What every system instruction keeps, the ends of a device call, and the statements of
45_system.md. -/

namespace Sys2Proof.Machine

/-! ### What a system instruction keeps -/

/-- The system instructions (45_system.md R250-R252). -/
def systemOps : List Op := [.hlt, .outRegLit, .intLit]

theorem not_mem_writers_of_systemOps {o : Op} (ho : o ∈ systemOps) {p : Part} (hp : p ≠ .trace) :
    o ∉ p.writers := by
  have hall : ∀ o ∈ systemOps, o ∉ p.writers := by
    cases p with
    | trace => exact absurd rfl hp
    | reg r => cases r <;> decide
    | _ => decide
  exact hall o ho

theorem destinationOf_of_systemOps {i : Instr} (hi : i.op ∈ systemOps) : destinationOf i = none := by
  cases i
  case hlt | outRegLit | intLit => rfl
  all_goals simp [systemOps] at hi

section Ends

variable {i : Instr} {s t : State}

/-- A system instruction changes nothing but the trace and what the cycle itself writes. -/
theorem exec_kept_of_systemOps (hi : i.op ∈ systemOps) (h : exec i s = .next t) {p : Part}
    (hc : p ∉ cycleParts) (hp : p ≠ .trace) : p.Kept s t :=
  exec_kept h hc (not_mayChange (not_mem_writers_of_systemOps hi hp) fun r _ _ => by
    simp [destinationOf_of_systemOps hi])

theorem exec_ip_of_systemOps (hi : i.op ∈ systemOps) (h : exec i s = .next t) :
    t.reg .ip = nextAddress i s :=
  exec_ip h (not_mem_writers_of_systemOps hi nofun)

theorem regsKept_of_systemOps (hi : i.op ∈ systemOps) (h : exec i s = .next t) :
    regsKept s t [.ip, .pc] := fun r hr =>
  exec_kept_of_systemOps (p := .reg r) hi h (by simpa [cycleParts] using hr) nofun

theorem memoryKept_of_systemOps (hi : i.op ∈ systemOps) (h : exec i s = .next t) :
    memoryKept s t := fun b => by
  have hmem : t.mem = s.mem := exec_kept_of_systemOps (p := .mem) hi h (by decide) nofun
  rw [hmem]

theorem stackKept_of_systemOps (hi : i.op ∈ systemOps) (h : exec i s = .next t) :
    stackKept s t := by
  obtain ⟨hmsp, htypes, hfsz⟩ := exec_kept_of_systemOps (p := .stack) hi h (by decide) nofun
  exact ⟨hmsp, htypes, hfsz, exec_kept_of_systemOps (p := .depth) hi h (by decide) nofun⟩

/-! ### The ends of a device call (45_system.md R253) -/

/-- A system instruction whose statements are a device call's calls the device once, or only faults. -/
theorem callsDevice_of_deviceCall {kind : DeviceKind} {key v : Word} (hi : i.op ∈ systemOps)
    (h : statements i (s.advance i) = thenGoOn (deviceCall kind key v) (s.advance i)) :
    CallsDevice i s kind key v := by
  have hcall := deviceCall_apply kind key v (s.advance i)
  rw [State.advance_cfg] at hcall
  rw [CallsDevice]
  split
  case isTrue hhandler =>
    rw [if_pos hhandler] at hcall
    have hok := h.trans (thenGoOn_of_ok hcall)
    have hexec := exec_of_ok hok
    refine ⟨_, hexec, completed_of_ok hok, exec_ip_of_systemOps hi hexec, ?trace,
      regsKept_of_systemOps hi hexec, memoryKept_of_systemOps hi hexec,
      stackKept_of_systemOps hi hexec⟩
    case trace => rw [State.retire_trace, State.emitted_trace, State.advance_trace]
  case isFalse hhandler =>
    rw [if_neg hhandler] at hcall
    exact onlyFaults_of_error (h.trans (thenGoOn_of_error hcall))

end Ends

/-! ### The statements of 45_system.md -/

/-- Settles O36: HLT's one statement asks for the halt, and the end of the cycle grants it. -/
theorem hltHaltsTheMachine : Obligations.HltHaltsTheMachine := by
  unfold Obligations.HltHaltsTheMachine
  refine ⟨written_of_opcode rfl rfl rfl, fun s => ?_⟩
  have hi : Instr.hlt.op ∈ systemOps := by decide
  have hok : statements .hlt (s.advance .hlt) = .ok true (s.advance .hlt) := rfl
  have hexec := exec_of_ok hok
  obtain ⟨hfault, -, hhalted, -⟩ := completed_of_ok hok
  refine ⟨_, hexec, completed_of_ok hok, hhalted.mpr (.inr (.inl rfl)), hfault,
    exec_ip_of_systemOps hi hexec, regsKept_of_systemOps hi hexec, memoryKept_of_systemOps hi hexec,
    stackKept_of_systemOps hi hexec, ?trace⟩
  case trace => rw [State.retire_trace, State.advance_trace]

/-- Settles O37: the statements read the register, then call the device. -/
theorem outSendsTheRegisterToTheDevice : Obligations.OutSendsTheRegisterToTheDevice := by
  unfold Obligations.OutSendsTheRegisterToTheDevice
  intro rs addr s
  have hi : Op.outRegLit ∈ systemOps := by decide
  refine ⟨written_of_opcode rfl rfl rfl, callsDevice_of_deviceCall hi ?_⟩
  rw [← advance_reg_eq_operandOf]
  rfl

/-- Settles O38: the statements read AC, which IP's advance keeps, then call the handler. -/
theorem intCallsTheHandlerWithAc : Obligations.IntCallsTheHandlerWithAc := by
  unfold Obligations.IntCallsTheHandlerWithAc
  intro id s
  have hi : Op.intLit ∈ systemOps := by decide
  refine ⟨written_of_opcode rfl rfl rfl, callsDevice_of_deviceCall hi ?_⟩
  rw [← advance_reg_of_ne s (.intLit id) (r := .ac) (by decide)]
  rfl

end Sys2Proof.Machine
end

section
/-! PROOFS. The fault record and the halted machine (60_exceptions.md R271, R278). -/

namespace Sys2Proof.Machine

/-- Only taking a fault writes the record, and it halts the machine (60_exceptions.md R271). -/
theorem halted_or_fault_kept {s t : State} (h : step s = .next t) :
    t.halted = true ∨ t.fault = s.fault := by
  cases stepEnd_of_step h with
  | halted hs => exact .inl hs
  | hostHalt | opcodeFault | argumentFault | faulted => exact .inl rfl
  | completed _ _ _ _ hu =>
    obtain ⟨hfault, -⟩ := completed_of_ok hu
    exact .inr hfault

theorem eq_of_step_of_halted {s t : State} (hs : s.halted = true) (h : step s = .next t) : t = s :=
  Host.Outcome.next.inj (h.symm.trans (step_of_halted hs))

/-- Settles O42: a step that leaves the machine running keeps the record, and a faulted machine, being
halted, stays as it is. -/
theorem recordedFaultMeansHalted : Obligations.RecordedFaultMeansHalted := by
  unfold Obligations.RecordedFaultMeansHalted
  intro s t hinv h
  have hfrozen : Faulted s → t = s := fun hs => eq_of_step_of_halted (hinv hs) h
  have hstays : s.halted = true → t.halted = true := fun hs => eq_of_step_of_halted hs h ▸ hs
  refine ⟨fun ht => ?faultHalts, hfrozen, hstays⟩
  case faultHalts =>
    obtain hhalted | hfault := halted_or_fault_kept h
    · exact hhalted
    · have hs : Faulted s := fun hnone => ht (hfault.trans hnone)
      exact hstays (hinv hs)

end Sys2Proof.Machine
end

section
/-! PROOFS. The region table and the invariants of a new machine, and the statements of
70_reset_and_hazards.md. -/

namespace Sys2Proof.Machine

/-! ### Reset (70_reset_and_hazards.md R300) -/

/-- Settles O52: `Cpu.Reset` zeroes the registers, and ClearStack keeps them. -/
theorem resetClearsTheCpuAndTheStack : Obligations.ResetClearsTheCpuAndTheStack := by
  unfold Obligations.ResetClearsTheCpuAndTheStack
  exact fun s => ⟨State.cpuReset_reg s, rfl, rfl, rfl, rfl, rfl, rfl, rfl, rfl, rfl, rfl, rfl⟩

/-- A new machine is in its reset state already (70_reset_and_hazards.md R301). -/
theorem hostReset_constructed (c : Config) :
    (State.constructed c).hostReset = State.constructed c := rfl

/-! ### The listed regions (70_reset_and_hazards.md R302) -/

/-- The region of one listed entry, under its sequence id. -/
def numberedRegion (k : Nat) (spec : RegionSpec) : Region :=
  ⟨k, spec.start, spec.stop, spec.flags, spec.label⟩

theorem numberedRegions_eq_mapIdx (n : Nat) (specs : List RegionSpec) :
    numberedRegions n specs = specs.mapIdx fun k spec => numberedRegion (n + k) spec := by
  induction specs generalizing n with
  | nil => rfl
  | cons spec specs ih =>
    simp only [numberedRegions, ih, List.mapIdx_cons, Nat.add_right_comm, ← Nat.add_assoc]
    rfl

theorem initialRegions_eq (c : Config) :
    initialRegions c =
      c.regions.mapIdx numberedRegion ++
        [⟨c.regions.length, c.stackStart, c.stackEnd, c.stackFlags, "stack"⟩] := by
  simp only [initialRegions, numberedRegions_eq_mapIdx, Nat.zero_add]

theorem initialRegions_length (c : Config) :
    (initialRegions c).length = c.regions.length + 1 := by
  rw [initialRegions_eq, List.length_append, List.length_mapIdx, List.length_singleton]

theorem initialRegions_listed {c : Config} {k : Nat} {spec : RegionSpec}
    (h : c.regions[k]? = some spec) : (initialRegions c)[k]? = some (numberedRegion k spec) := by
  obtain ⟨hk, -⟩ := List.getElem?_eq_some_iff.mp h
  rw [initialRegions_eq, List.getElem?_append_left (by simpa using hk), List.getElem?_mapIdx, h,
    Option.map_some]

theorem initialRegions_stack (c : Config) :
    (initialRegions c)[c.regions.length]? =
      some ⟨c.regions.length, c.stackStart, c.stackEnd, c.stackFlags, "stack"⟩ := by
  simp [initialRegions_eq]

/-! ### The invariants of a new machine -/

/-- What legal memory parameters say of the regions (00_scope.md R7). -/
theorem regions_of_memoryLegal {c : Config} (hc : c.memoryLegal = true) :
    c.stackStart < c.stackEnd ∧
      (∀ spec ∈ c.regions, spec.start < spec.stop ∧ spec.stop ≤ c.stackStart) ∧
      c.regions.Pairwise fun spec spec' => spec.stop ≤ spec'.start ∨ spec'.stop ≤ spec.start := by
  simp only [Config.memoryLegal, disjointRanges, Bool.and_eq_true, Bool.or_eq_true,
    List.all_eq_true, decide_eq_true_eq] at hc
  obtain ⟨⟨⟨⟨⟨⟨⟨⟨-, -⟩, hsize⟩, -⟩, hbase⟩, -⟩, -⟩, hbounds⟩, hapart⟩ := hc
  refine ⟨?_, hbounds, hapart⟩
  rw [Config.stackStart, Config.stackEnd]
  omega

/-- The listed regions lie below the stack, so the stack's region may follow them. -/
theorem regionsInv_constructed {c : Config} (hc : c.memoryLegal = true) :
    RegionsInv (State.constructed c) := by
  obtain ⟨hstack, hbounds, hapart⟩ := regions_of_memoryLegal hc
  have hlow : ∀ r ∈ c.regions.mapIdx numberedRegion, r.start < r.stop ∧ r.stop ≤ c.stackStart := by
    intro r hr
    obtain ⟨k, hk, rfl⟩ := List.mem_mapIdx.mp hr
    exact hbounds _ (List.getElem_mem hk)
  have hlisted : RegionsInv
      { State.constructed c with regions := c.regions.mapIdx numberedRegion } := by
    refine ⟨fun r hr => ?inside, List.pairwise_iff_getElem.mpr fun j k hj hk hjk => ?apart⟩
    case inside =>
      obtain ⟨hne, hstop⟩ := hlow r hr
      exact ⟨hne, hstop.trans hstack.le⟩
    case apart =>
      simp only [List.length_mapIdx] at hj hk
      simpa only [List.getElem_mapIdx, numberedRegion] using
        List.pairwise_iff_getElem.mp hapart j k hj hk hjk
  exact regionsInv_append hlisted (initialRegions_eq c) le_rfl hstack le_rfl
    fun r hr => .inl (hlow r hr).2

/-- A new machine meets every invariant that Reset gives (70_reset_and_hazards.md R301). -/
theorem invariants_constructed {c : Config} (hc : c.memoryLegal = true) :
    MemoryInv (State.constructed c) ∧ RegionsInv (State.constructed c) ∧
      StackInv (State.constructed c) ∧ ShadowInv (State.constructed c) ∧
      MirrorInv (State.constructed c) ∧ FaultHalts (State.constructed c) := by
  have hmem : MemoryInv (State.constructed c) :=
    ⟨constructed_mem_wf c, fun _ hcell => absurd hcell List.not_mem_nil⟩
  obtain ⟨-, -, -, -, hreset⟩ :=
    hostOperationsKeepTheInvariants _ hmem (regionsInv_constructed hc)
  rwa [hostReset_constructed] at hreset

/-- The four positions of a legal FL layout are distinct, so S, Z and O are (00_scope.md R7). -/
theorem flagsApart_constructed {c : Config} (hc : c.encodingLegal = true) :
    flagsApart (State.constructed c) := by
  have hbits : [c.flLayout.s, c.flLayout.z, c.flLayout.o, c.flLayout.c].Nodup :=
    of_decide_eq_true (Bool.and_eq_true_iff.mp hc).2
  simp only [List.nodup_cons, List.mem_cons, not_or] at hbits
  obtain ⟨⟨hsz, hso, -⟩, ⟨hzo, -⟩, -⟩ := hbits
  exact ⟨hsz, hso, hzo⟩

/-! ### The statements on construction and the reset state (70_reset_and_hazards.md R301-R304) -/

/-- Settles O54: the region table entry by entry, and the invariants of a new machine. -/
theorem constructionLaysOutTheMachine : Obligations.ConstructionLaysOutTheMachine := by
  unfold Obligations.ConstructionLaysOutTheMachine
  refine ⟨fun c hc => ?legal, if_pos reference_legal, rfl⟩
  case legal =>
    obtain ⟨-, hmem⟩ := Bool.and_eq_true_iff.mp hc
    obtain ⟨hmemory, hregions, hstack, -⟩ := invariants_constructed hmem
    exact ⟨State.constructed c, if_pos hc, rfl, rfl, fun _ => rfl, initialRegions_length c,
      fun _ _ => initialRegions_listed, initialRegions_stack c, Regs.get_zero, rfl, rfl, rfl, rfl,
      rfl, rfl, hmemory, hregions, hstack⟩

/-- Settles O55: the reference configuration is legal. -/
theorem resetMeetsTheInvariants : Obligations.ResetMeetsTheInvariants := by
  unfold Obligations.ResetMeetsTheInvariants
  obtain ⟨hcode, hmem⟩ := Bool.and_eq_true_iff.mp reference_legal
  obtain ⟨hmemory, hregions, hstack, hshadow, hmirror, hfault⟩ := invariants_constructed hmem
  exact ⟨hmemory, hregions, hstack, hshadow, hmirror, hfault, flagsApart_constructed hcode⟩

/-- Settles O56: address 0 lies in the first listed region, which is public to read and has no
Execute. -/
theorem firstFetchWithoutBootIsAViolation : Obligations.FirstFetchWithoutBootIsAViolation := by
  unfold Obligations.FirstFetchWithoutBootIsAViolation
  have hfetch : fetchFault State.reset (opcodeAddress State.reset) 4 =
      some (.memoryAccessViolation 0 .execute .user) := by decide
  exact step_of_fetchOp_error rfl rfl (fetchOp_of_fetchFault hfetch)

end Sys2Proof.Machine
end
